-- ==== Sys2Proof/Word.lean ====
section
/-!
DEFINITION. The plain types that every file shares: bytes and model time.
-/

namespace Sys2Proof

/-- One byte of the line, of a record or of a reply (chapter 12). -/
abbrev Byte := BitVec 8

/-- A moment or a duration of model time, in twelfths of a microsecond. In this unit 1 µs, and one
nominal bit at each of the three rates, are whole numbers (DESIGN CHOICE, log 1). -/
abbrev Time := Nat

/-- One of the drive channels D0-D5. -/
abbrev Chan := Fin 6

/-- One of the groups G0-G3. -/
abbrev Group := Fin 4

/-- One of the capture inputs C0-C3. -/
abbrev CapIn := Fin 4

/-- One of the analog inputs A0-A3. -/
abbrev AnIn := Fin 4

/-- One of the publish buffers P0-P7. -/
abbrev Buf := Fin 8

/-- A tag, the index of a tag entry and of a runtime record. -/
abbrev Tag := Fin 64

/-- The sequence field of a length byte. -/
abbrev Seq := BitVec 3

/-- A set of groups: bit g says whether group g is in it (12.1, R191). -/
abbrev GroupSet := BitVec 4

/-- A setpoint, a delay or a shot's width, 0-4095. -/
abbrev Value12 := BitVec 12

end Sys2Proof
end

