-- ==== Sys2Proof/Syntax.lean ====
section
/-!
DEFINITION. The commands the block takes: one constructor for each row of spec/opcode_table.json.
Every command carries `dt`, the model time that has passed since the command before it (log 1).
-/

namespace Sys2Proof

/-- A level of a wire or a pin. -/
inductive Level where
  | low
  | high
  deriving DecidableEq, Repr

/-- The two line ports. -/
inductive Port where
  | up
  | down
  deriving DecidableEq, Repr

/-- How a command frame reaches the management unit: addressed to the bridge's own station, or
broadcast (R165). A frame that is neither leaves the management unit alone. -/
inductive Via where
  | own
  | broadcast
  deriving DecidableEq, Repr

/-- What the clock meets at the end of a window on UP: when, and for how long the wire has been low then
(none: it is high). -/
structure WindowEnd where
  dt : Time
  low : Option Time
  deriving DecidableEq, Repr

/-- What the clock meets at the limit of R7: `elapsed` since the rate byte's opening edge, and for how long
the wire has been low then (none: it is high). -/
structure RateWait where
  elapsed : Time
  low : Option Time
  deriving DecidableEq, Repr

/-- A moment of a low on DOWN: when, and for how long the low has lasted then. -/
structure LowMoment where
  dt : Time
  length : Time
  deriving DecidableEq, Repr

/-- The end of a low that covers a stop cell (R5): when, how long after the byte's start edge, and how long
that low was. -/
structure StopLow where
  dt : Time
  elapsed : Time
  length : Time
  deriving DecidableEq, Repr

/-- The commands. A line or time row is one event, at the moment `dt` after the command before it.
A management row is the check-byte moment (R173) of a COMMAND frame that passes its check and that
carries that command, its sequence and its operand bytes, in the order of 12.5 (log 8). -/
inductive Instr where
  /-- The RESET pin goes low (R40). -/
  | resetAssert (dt : Time)
  /-- RESET is released: the straps read ST3..ST0; is the UP wire, is the DOWN wire, low then? -/
  | resetRelease (dt : Time) (straps : BitVec 4) (upLow downLow : Bool)
  /-- A short low ends on UP (R17): between frames it is stray; inside one it is a byte's, or no byte's
  (R5, log 17). -/
  | strayLow (dt : Time)
  /-- The rising edge of a break on UP (R19). -/
  | upBreak (dt : Time)
  /-- A low on UP reaches 13 nominal Tbit inside a frame (R25). -/
  | frameAbort (dt : Time)
  /-- A low passes 200 nominal Tbit (R18). -/
  | lineStuck (dt : Time) (port : Port)
  /-- The rising edge that ends a stuck low (R18). -/
  | stuckEnd (dt : Time) (port : Port)
  /-- The rate byte completes: `span` from its opening edge to the fourth falling edge, and its value
  (R7). With an early fourth edge the moment is that edge, and the value is not read. -/
  | rateByte (dt : Time) (span : Time) (value : Byte)
  /-- 7.84 nominal Tbit pass after the rate byte's opening edge without a fourth falling edge (R7). -/
  | rateLimit (dt : Time) (wait : RateWait)
  /-- The address byte completes on UP (R21). -/
  | addressByte (dt : Time) (value : Byte)
  /-- The length byte completes on UP (R21). -/
  | lengthByte (dt : Time) (value : Byte)
  /-- A data byte completes on UP (R23). -/
  | dataByte (dt : Time) (value : Byte)
  /-- The check byte of a frame the bridge receives completes on UP (R20). -/
  | checkByte (dt : Time) (value : Byte)
  /-- A low stop cell whose low ends before 13 nominal Tbit, on UP (R5). -/
  | framingError (low : StopLow)
  /-- A gap window passes with no start edge, on UP (R13, R14). -/
  | gapError (window : WindowEnd)
  /-- No response to a LISTEN frame within 10 measured Tbit (R14). -/
  | unanswered (window : WindowEnd)
  /-- The bridge begins its own response on UP (R33). -/
  | ownResponseStart (dt : Time)
  /-- A response byte finishes on UP (R33, R35). -/
  | upByteSent (dt : Time)
  /-- The stop cell of the response's check byte reads back high (R20, R33). -/
  | responseDelivered (dt : Time)
  /-- A foreign low on UP while the bridge is the responder (R36). -/
  | upConflict (dt : Time)
  /-- The DOWN port starts a regenerated break (R29). -/
  | regenerationStart (dt : Time)
  /-- The regenerated break ends (R29). -/
  | downBreakEnd (dt : Time)
  /-- The delimiter ends and the DOWN port sends 0xAA (R29). -/
  | delimiterEnd (dt : Time)
  /-- A byte's stop bit ends on DOWN (R30). -/
  | downByteSent (dt : Time)
  /-- A foreign low on DOWN while the port transmits (R31). -/
  | downConflict (dt : Time)
  /-- A low on DOWN while the port is IDLE (R32): it has lasted for its length (0: it begins now). -/
  | foreignLow (low : LowMoment)
  /-- A foreign low on DOWN ends before 13 nominal Tbit (R32). -/
  | foreignLowIgnored (dt : Time)
  /-- A foreign low of 13-200 nominal Tbit ends on DOWN (R32). -/
  | downBreak (dt : Time)
  /-- No response start on DOWN within 12 Tbit (R34). -/
  | respTimeout (dt : Time)
  /-- A response data byte completes on DOWN (R35). -/
  | downResponseByte (dt : Time) (value : Byte)
  /-- The response check byte completes on DOWN (R35). -/
  | downResponseCheck (dt : Time) (value : Byte)
  /-- A response byte on DOWN has a low stop cell: the low that covers it ends now (R35). -/
  | downResponseFraming (low : StopLow)
  /-- No start edge within 3 Tbit of the end of a response byte on DOWN (R35). -/
  | downResponseGap (dt : Time)
  /-- A low in LISTEN or RECEIVE reaches 13 nominal Tbit (R35). -/
  | downResponseBreak (low : LowMoment)
  /-- The UP quiet timer expires (R37). -/
  | lineQuiet (dt : Time)
  /-- P ticks have passed since the last cycle start (R81). -/
  | wrap (dt : Time)
  /-- The count reaches a WIDTH channel's delay (R95). -/
  | widthPhaseStart (dt : Time) (chan : Chan)
  /-- The count reaches a WIDTH channel's delay plus setpoint (R96). -/
  | widthPhaseEnd (dt : Time) (chan : Chan)
  /-- A shot's delay has passed (R98). -/
  | shotDelayEnd (dt : Time) (chan : Chan)
  /-- A shot's width has passed (R98). -/
  | shotEnd (dt : Time) (chan : Chan)
  /-- A capture pin changes to a level (R120). -/
  | capturePinChange (dt : Time) (input : CapIn) (level : Level)
  /-- A pending change has held for the filter width (R120). -/
  | captureEdge (dt : Time) (input : CapIn)
  /-- A timed measurement reaches 65535 tick lengths (R124). -/
  | captureOverflow (dt : Time) (input : CapIn)
  /-- 50 µs of settling pass (R136). -/
  | settlingEnd (dt : Time)
  /-- A conversion ends; `value` is the input's voltage at the moment the conversion began (R136). -/
  | conversionEnd (dt : Time) (value : BitVec 10)
  /-- PING, R174. -/
  | ping (dt : Time) (via : Via) (seq : Seq)
  /-- READ_STATUS, R186. -/
  | readStatus (dt : Time) (via : Via) (seq : Seq)
  /-- READ_COUNTS, R187. -/
  | readCounts (dt : Time) (via : Via) (seq : Seq) (view : Byte)
  /-- CLEAR_COUNTS, R188. -/
  | clearCounts (dt : Time) (via : Via) (seq : Seq)
  /-- SET_LINE, R175. -/
  | setLine (dt : Time) (via : Via) (seq : Seq) (rate limit : Byte)
  /-- ASSIGN_STATION, R176 and R177. -/
  | assignStation (dt : Time) (via : Via) (seq : Seq) (station : Byte)
  /-- UNASSIGN, R178. -/
  | unassign (dt : Time) (via : Via) (seq : Seq)
  /-- SOFT_RESET, R179. -/
  | softReset (dt : Time) (via : Via) (seq : Seq)
  /-- WRITE_TAG, R51 and R52. -/
  | writeTag (dt : Time) (via : Via) (seq : Seq)
      (tag role forward expected first count commitAfter filter sync buffer : Byte)
  /-- READ_TAG, R54. -/
  | readTag (dt : Time) (via : Via) (seq : Seq) (bank tag : Byte)
  /-- WRITE_UNPACK, R53; `descriptors` holds two bytes for each descriptor (R191). -/
  | writeUnpack (dt : Time) (via : Via) (seq : Seq) (first number : Byte) (descriptors : List Byte)
  /-- READ_UNPACK, R55. -/
  | readUnpack (dt : Time) (via : Via) (seq : Seq) (bank first number : Byte)
  /-- SWAP_BANKS, R57 and R58. -/
  | swapBanks (dt : Time) (via : Via) (seq : Seq)
  /-- COPY_BANK, R56. -/
  | copyBank (dt : Time) (via : Via) (seq : Seq)
  /-- CONFIG_CYCLE, R84; the period is two bytes, high byte first. -/
  | configCycle (dt : Time) (via : Via) (seq : Seq) (tick periodHigh periodLow mode : Byte)
  /-- CONFIG_CHANNEL, R86 and R87. -/
  | configChannel (dt : Time) (via : Via) (seq : Seq)
      (chan mode group polarity leader trigger retrigger action : Byte)
  /-- CONFIG_GROUP, R75. -/
  | configGroup (dt : Time) (via : Via) (seq : Seq) (group sources holdLimit quietTrip : Byte)
  /-- GROUP_START, R105. -/
  | groupStart (dt : Time) (via : Via) (seq : Seq) (mask : Byte)
  /-- GROUP_STOP, R106. -/
  | groupStop (dt : Time) (via : Via) (seq : Seq) (mask : Byte)
  /-- GROUP_RESUME, R113. -/
  | groupResume (dt : Time) (via : Via) (seq : Seq) (mask : Byte)
  /-- COMMIT, R76. -/
  | commit (dt : Time) (via : Via) (seq : Seq) (mask : Byte)
  /-- READ_CHANNEL, R77 and R78. -/
  | readChannel (dt : Time) (via : Via) (seq : Seq) (chan view : Byte)
  /-- CONFIG_CAPTURE, R128. -/
  | configCapture (dt : Time) (via : Via) (seq : Seq) (input mode edge filter : Byte)
  /-- READ_CAPTURE, R130. -/
  | readCapture (dt : Time) (via : Via) (seq : Seq) (input : Byte)
  /-- CONFIG_SAMPLER, R142. -/
  | configSampler (dt : Time) (via : Via) (seq : Seq)
      (mode length entry0 entry1 entry2 entry3 source : Byte)
  /-- SET_LIMITS, R144; each limit is two bytes, high byte first. -/
  | setLimits (dt : Time) (via : Via) (seq : Seq)
      (input lowHigh lowLow highHigh highLow tripMask : Byte)
  /-- SAMPLE_NOW, R145. -/
  | sampleNow (dt : Time) (via : Via) (seq : Seq)
  /-- READ_SAMPLES, R146. -/
  | readSamples (dt : Time) (via : Via) (seq : Seq) (view input : Byte)
  /-- WRITE_SOURCE, R152. -/
  | writeSource (dt : Time) (via : Via) (seq : Seq) (index kind selector : Byte)
  /-- WRITE_PUBMAP, R153. -/
  | writePubmap (dt : Time) (via : Via) (seq : Seq) (buffer first count : Byte)
  /-- READ_PUBLISH, R161. -/
  | readPublish (dt : Time) (via : Via) (seq : Seq) (view operand half : Byte)
  /-- EVENT_READ, R184. -/
  | eventRead (dt : Time) (via : Via) (seq : Seq)
  /-- EVENT_ACK, R185. -/
  | eventAck (dt : Time) (via : Via) (seq : Seq) (stamp : Byte)
  /-- A falling edge on UP that the UP port did not cause (R17). -/
  | upLowSeen (dt : Time)
  deriving DecidableEq, Repr

/-- The time that a command carries (log 1). -/
def Instr.dt : Instr → Time
  | .resetAssert dt | .resetRelease dt _ _ _ | .strayLow dt | .upBreak dt | .frameAbort dt
  | .lineStuck dt _ | .stuckEnd dt _ | .rateByte dt _ _ | .rateLimit dt _ | .addressByte dt _
  | .lengthByte dt _ | .dataByte dt _ | .checkByte dt _ | .framingError ⟨dt, _, _⟩ | .gapError ⟨dt, _⟩
  | .unanswered ⟨dt, _⟩ | .ownResponseStart dt | .upByteSent dt | .responseDelivered dt | .upConflict dt
  | .regenerationStart dt | .downBreakEnd dt | .delimiterEnd dt | .downByteSent dt | .downConflict dt
  | .foreignLow ⟨dt, _⟩ | .foreignLowIgnored dt | .downBreak dt | .respTimeout dt | .downResponseByte dt _
  | .downResponseCheck dt _ | .downResponseFraming ⟨dt, _, _⟩ | .downResponseGap dt
  | .downResponseBreak ⟨dt, _⟩
  | .lineQuiet dt | .wrap dt | .widthPhaseStart dt _ | .widthPhaseEnd dt _ | .shotDelayEnd dt _
  | .shotEnd dt _ | .capturePinChange dt _ _ | .captureEdge dt _ | .captureOverflow dt _
  | .settlingEnd dt | .conversionEnd dt _ | .ping dt _ _ | .readStatus dt _ _ | .readCounts dt _ _ _
  | .clearCounts dt _ _ | .setLine dt _ _ _ _ | .assignStation dt _ _ _ | .unassign dt _ _
  | .softReset dt _ _ | .writeTag dt _ _ _ _ _ _ _ _ _ _ _ _ | .readTag dt _ _ _ _
  | .writeUnpack dt _ _ _ _ _ | .readUnpack dt _ _ _ _ _ | .swapBanks dt _ _ | .copyBank dt _ _
  | .configCycle dt _ _ _ _ _ _ | .configChannel dt _ _ _ _ _ _ _ _ _ _ | .configGroup dt _ _ _ _ _ _
  | .groupStart dt _ _ _ | .groupStop dt _ _ _ | .groupResume dt _ _ _ | .commit dt _ _ _
  | .readChannel dt _ _ _ _ | .configCapture dt _ _ _ _ _ _ | .readCapture dt _ _ _
  | .configSampler dt _ _ _ _ _ _ _ _ _ | .setLimits dt _ _ _ _ _ _ _ _ | .sampleNow dt _ _
  | .readSamples dt _ _ _ _ | .writeSource dt _ _ _ _ _ | .writePubmap dt _ _ _ _ _
  | .readPublish dt _ _ _ _ _ | .eventRead dt _ _ | .eventAck dt _ _ _ | .upLowSeen dt => dt

end Sys2Proof
end

