-- ==== Sys2Proof/Decode.lean ====
section
/-!
DEFINITION. The commands that words spell by the table's bits. spec/opcode_table.json gives no row any
bits (its "fields" are empty and it has no "fixed"), so no word spells a command (log 21). The bytes of
the line are decoded where the line's rules read them: Machine/Codes.lean.
-/

namespace Sys2Proof

/-- No row of the table has bits, so every word is refused. -/
def decodeTableWord (_nbits _w : Nat) : Option Instr := none

end Sys2Proof
end

