-- ==== Sys2Proof/Config.lean ====
section
/-!
DEFINITION. What the manual leaves to the part: free values. None has a body, so no proof can use a
particular value. Each is applied to `State.draws`, so that every use is a fresh choice.
-/

namespace Sys2Proof.Config

/-- FREE VALUE (log 9). At one cycle start, is group g's AUTO commit (R70) taken before the group
supervisor's work on g (the end of fallback and the hold check)? R108 gives both orders. -/
opaque autoFirst : Nat → Group → Bool

/-- FREE VALUE (log 9). At one cycle start, do the drive channels take the announcement before the
group supervisor does? R82 announces to both and R108 names no order between them. -/
opaque channelsFirst : Nat → Bool

/-- FREE VALUE (log 10). Two units post at one moment: does the next entry to join the event queue,
the n-th of that moment, come from the first unit? (R39, R117, R140, R183.) -/
opaque firstUnitPosts : Nat → Nat → Bool

/-- FREE VALUE (log 10). A mark restarts the counter at the moment at which the ports post for the same
frame: how many of those entries join the queue before the restart, with the old local cycle number?
The others join among the entries of that cycle start (R39, R183). -/
opaque postedBeforeRestart : Nat → Nat

/-- FREE VALUE (log 11). The content of a FRESH source item read outside the build of any buffer
(READ_PUBLISH view SOURCE): R149 defines it only for the buffer being built. -/
opaque freshOutsideBuild : Nat → Byte

end Sys2Proof.Config
end

