-- ==== Sys2Proof/Machine/State.lean ====
section
/-!
DEFINITION. The state of the bridge as plain data, block by block in the order of chapter 0, and the
state right after pin or power reset. A field that the spec does not name is said to be the model's own.
-/

namespace Sys2Proof.Machine

/-! ### The line (chapters 1 and 2) -/

/-- The nominal rates, in bit/s (R2). -/
inductive Rate where
  | r4800
  | r9600
  | r19200
  deriving DecidableEq, Repr

/-- A low being timed: the moment of its falling edge, and the nominal Tbit in force then (R2). -/
structure LowTimer where
  since : Time
  tbit : Time
  deriving DecidableEq, Repr

/-- The states of the UP receiver (2.1). -/
inductive Rx where
  | idle
  | lowSeen (low : LowTimer)
  | stuck
  deriving DecidableEq, Repr

/-- The kinds of a frame that carries a tag (R9). -/
inductive TagKind where
  | put
  | get
  | mark
  deriving DecidableEq, Repr

/-- The defined MGMT functions (R9). -/
inductive MgmtFunction where
  | command
  | reply
  deriving DecidableEq, Repr

/-- What a valid address byte names: kind and tag, or function and station (R9). -/
inductive Head where
  | tagged (kind : TagKind) (tag : Tag)
  | mgmt (function : MgmtFunction) (station : Fin 16)
  deriving DecidableEq, Repr

/-- The states of the frame context (2.2). -/
inductive FcState where
  | rate
  | address
  | length
  | data
  | check
  | responding
  | relayResponse
  | done
  deriving DecidableEq, Repr

/-- The forward field of a frame context (R21, R22). -/
inductive FrameForward where
  | down
  | none
  | pending
  deriving DecidableEq, Repr

/-- The answer field, settled at the length byte of a GET or REPLY (R21). -/
inductive Answer where
  | own
  | relay
  | listen
  deriving DecidableEq, Repr

/-- The relay field (R21, R28). -/
inductive RelayField where
  | live
  | dropped
  deriving DecidableEq, Repr

/-- The outcomes of a frame on UP (2.2). -/
inductive FrameOutcome where
  | complete
  | rate
  | format
  | framing
  | gap
  | length
  | check
  | aborted
  | unanswered
  | sent
  | conflict
  | relayFailed
  deriving DecidableEq, Repr

/-- The line errors that end a frame (R15). -/
inductive LineError where
  | rate
  | format
  | framing
  | gap
  | length
  | check
  deriving DecidableEq, Repr

/-- The markers of a relay queue entry (2.5). -/
inductive Marker where
  | opening
  | body
  | turn
  | ending
  deriving DecidableEq, Repr

/-- A relay queue entry. `frame` is the model's own: the frame the byte belongs to (R28, log 15). -/
structure RelayEntry where
  value : Byte
  marker : Marker
  frame : Nat
  deriving DecidableEq, Repr

/-! ### The tag table (chapter 3) -/

/-- The tag roles (3.1). -/
inductive Role where
  | relay
  | block
  | consume
  | publish
  | marker
  deriving DecidableEq, Repr

/-- The forward field of a tag entry. -/
inductive Forward where
  | none
  | down
  deriving DecidableEq, Repr

/-- The expected length of a tag entry: 0-16, or ANY. -/
inductive ExpectedLength where
  | any
  | exactly (n : Fin 17)
  deriving DecidableEq, Repr

/-- A tag entry (3.1). -/
structure TagEntry where
  role : Role
  forward : Forward
  expected : ExpectedLength
  unpackFirst : Fin 48
  unpackCount : Fin 7
  commitAfter : Bool
  filter : GroupSet
  cycleSync : Bool
  buffer : Buf
  deriving DecidableEq, Repr

/-- The size of an unpacked value, in bytes. -/
inductive ValueSize where
  | one
  | two
  deriving DecidableEq, Repr

/-- The field of a stage slot that a descriptor names. -/
inductive Param where
  | setpoint
  | delay
  deriving DecidableEq, Repr

/-- An unpack descriptor (3.2). -/
structure Descriptor where
  offset : Fin 16
  size : ValueSize
  chan : Chan
  param : Param
  deriving DecidableEq, Repr

/-- One bank of the tag table (R42). -/
structure Bank where
  entries : Vector TagEntry 64
  descriptors : Vector Descriptor 48
  deriving DecidableEq, Repr

/-- A tag's runtime record (3.5). -/
structure Runtime where
  lastSeq : Option Seq
  accepted : Byte
  lastGeneration : Option Byte
  deriving DecidableEq, Repr

/-- The tag table: both banks, the generation of the active one, the runtime records. -/
structure TagTable where
  active : Bank
  shadow : Bank
  generation : Byte
  runtime : Vector Runtime 64
  deriving DecidableEq, Repr

/-- What a frame copies at its lookup (R45). -/
structure EntryCopy where
  entry : TagEntry
  unpack : List Descriptor
  generation : Byte
  deriving DecidableEq, Repr

/-! ### The frame context and the ports (chapter 2) -/

/-- The frame context. `addr`, `lengthByte`, `ref` and `noLocal` hold what the rules keep of the frame
beside the table of 2.2; `span` is 7 measured Tbit (R6); `id` is the model's own (log 15). -/
structure FrameContext where
  state : FcState
  /-- Seven measured Tbit. -/
  span : Option Time
  head : Option Head
  addr : Option Byte
  lengthByte : Option Byte
  copy : Option EntryCopy
  forward : Option FrameForward
  answer : Option Answer
  relay : Option RelayField
  count : Option (Fin 17)
  seq : Option Seq
  data : List Byte
  sum : Byte
  outcome : Option FrameOutcome
  /-- Marked as taking no local action (R46, R47, R154). -/
  noLocal : Bool
  /-- The break's rising edge, or the stop-cell centre of the last byte (R13, R14). -/
  ref : Time
  /-- Was the relayed check byte found in agreement on DOWN? (R35) -/
  relayAgrees : Option Bool
  /-- The downstream response ended early (R35). -/
  relayEnded : Bool
  id : Nat
  deriving DecidableEq, Repr

/-- A byte being sent on UP: its marker, the moment its start bit began, and 7 Tbit of its pace. -/
structure UpByte where
  value : Byte
  marker : Marker
  since : Time
  span : Time
  deriving DecidableEq, Repr

/-- The UP port counters (2.11). -/
structure UpCounts where
  framesOk : Byte
  rate : Byte
  format : Byte
  framing : Byte
  gap : Byte
  length : Byte
  check : Byte
  mismatch : Byte
  repeats : Byte
  conflict : Byte
  stray : Byte
  deriving DecidableEq, Repr

/-- The UP quiet timer's states (R37). -/
inductive QuietState where
  | off
  | running
  | expired
  deriving DecidableEq, Repr

/-- An expiry of the quiet timer that is due at the very moment of a pass: that moment, and the limit that
ran out (R63). -/
structure MetExpiry where
  moment : Time
  limit : Byte
  deriving DecidableEq, Repr

/-- A falling edge inside a frame that is taken as a byte's start edge, whether its start cell has been read
low already (R5), and the byte's later falling edges, oldest first (R6). -/
structure StartEdge where
  edge : Time
  read : Bool
  falls : List Time
  deriving DecidableEq, Repr

/-- The UP port beside its frame context. `start` is the start edge of the byte under way, where a row has
shown it (R5, R13, R14; log 17). `met` is the model's own: an expiry that has met a pass and can
still be taken after it (log 30). -/
structure UpPort where
  rx : Rx
  start : Option StartEdge
  /-- The byte in progress on UP. -/
  tx : Option UpByte
  /-- The bytes of the bridge's own response not yet begun, the check byte last (R33). -/
  resp : List Byte
  counts : UpCounts
  quiet : QuietState
  /-- The moment the quiet timer runs from (R37). -/
  quietSince : Time
  met : Option MetExpiry
  deriving DecidableEq, Repr

/-- The DOWN port states (2.6). -/
inductive DownState where
  | idle
  | foreignLow
  | stuck
  | sendingBreak
  | delimiter
  | rate
  | sending
  | listen
  | receive
  deriving DecidableEq, Repr

/-- The DOWN port counters (2.11). -/
structure DownCounts where
  framesOk : Byte
  check : Byte
  framing : Byte
  gap : Byte
  timeout : Byte
  conflict : Byte
  foreign : Byte
  deriving DecidableEq, Repr

/-- The DOWN port. -/
structure DownPort where
  state : DownState
  /-- The byte in progress in SENDING; none while the port waits for the next entry (R30). -/
  cur : Option RelayEntry
  /-- The start of the element in progress, or the moment the running window opened. -/
  since : Time
  /-- The DOWN Tbit of the frame in progress (R29). -/
  tbit : Time
  /-- The frame in progress on DOWN. -/
  frame : Nat
  /-- The address byte of the frame in progress on DOWN (R31, R34). -/
  addr : Byte
  /-- The frame's relay is abandoned and its element is being completed (R28). -/
  abandoned : Bool
  /-- Response data bytes still expected before the check byte (R35). -/
  respLeft : Nat
  /-- The running sum of the response, from the address and length bytes on (R35). -/
  respSum : Byte
  /-- A low by another party that is being timed (R32, R35). -/
  low : Option LowTimer
  /-- A response was given up while the port listened for it or read it: a low that stands on the wire then
  has begun no earlier than this. The model's own (R3, R28, R41; log 33). -/
  heardFrom : Option Time
  counts : DownCounts
  deriving DecidableEq, Repr

/-! ### Drive channels and the apply engine (chapters 4 and 5) -/

/-- Channel modes (5.4). -/
inductive ChanMode where
  | off
  | level
  | width
  | oneshot
  | follow
  deriving DecidableEq, Repr

/-- Channel polarity. -/
inductive Polarity where
  | activeHigh
  | activeLow
  deriving DecidableEq, Repr

/-- The trigger of a ONESHOT channel; NONE is the absent value. -/
inductive ChanTrigger where
  | commit
  | cycle
  | capture (k : CapIn)
  deriving DecidableEq, Repr

/-- The retrigger policy of a ONESHOT channel; NONE is the absent value. -/
inductive Retrigger where
  | ignore
  | restart
  deriving DecidableEq, Repr

/-- Fallback actions. -/
inductive Action where
  | idle
  | active
  | hold
  deriving DecidableEq, Repr

/-- Channel configuration (5.4). -/
structure ChanConfig where
  mode : ChanMode
  group : Group
  polarity : Polarity
  leader : Option Chan
  trigger : Option ChanTrigger
  retrigger : Option Retrigger
  action : Action
  deriving DecidableEq, Repr

/-- A stage slot's fields that a commit moves, with the source tag and the overwrite count (4.1). -/
structure Stage where
  setpoint : Option Value12
  delay : Option Value12
  source : Option Tag
  overwrite : Byte
  deriving DecidableEq, Repr

/-- An armed record (4.1). -/
structure Armed where
  setpoint : Option Value12
  delay : Option Value12
  deriving DecidableEq, Repr

/-- An active record (4.1). -/
structure Active where
  setpoint : Value12
  delay : Value12
  deriving DecidableEq, Repr

/-- The shot state with the delay and width taken at the shot's start, and the moment the state was
entered (R98). -/
inductive Shot where
  | idle
  | waiting (delay width : Value12) (since : Time)
  | active (delay width : Value12) (since : Time)
  deriving DecidableEq, Repr

/-- A channel's override (R90). -/
inductive Override where
  | none
  | idle
  | active
  deriving DecidableEq, Repr

/-- A drive channel: configuration, the three records, and the running state. `phase` is the output of
a WIDTH channel (R95); `latch` is the level latch, true for ACTIVE (R94). -/
structure Channel where
  config : ChanConfig
  stage : Stage
  clamp : Byte
  armed : Armed
  active : Active
  shot : Shot
  latch : Bool
  phase : Bool
  override : Override
  ignored : Byte
  deriving DecidableEq, Repr

/-! ### Groups (chapters 4 and 6) -/

/-- Group states (6.1). -/
inductive GroupState where
  | stopped
  | run
  | fallback
  | resuming
  deriving DecidableEq, Repr

/-- The causes of fallback (6.1); NONE is the absent value. -/
inductive Cause where
  | hold
  | quiet
  | limit
  deriving DecidableEq, Repr

/-- The commit sources (4.2), the bits of a commit source set in this order (R191). -/
inductive Source where
  | mark
  | self
  | mgmt
  | auto
  deriving DecidableEq, Repr

/-- A group: the supervisor's record (6.1), the commit configuration and the discard count (R61). -/
structure GroupRec where
  state : GroupState
  hold : Byte
  reason : Option Cause
  endPending : Bool
  sources : BitVec 4
  holdLimit : Byte
  quietTrip : Bool
  discard : Byte
  deriving DecidableEq, Repr

/-- The last-mark record (R61). -/
structure LastMark where
  cycle : Option Byte
  groups : GroupSet
  deriving DecidableEq, Repr

/-! ### The cycle counter (chapter 5) -/

/-- The tick settings (5.1). -/
inductive Tick where
  | us1
  | us2
  | us5
  | us10
  deriving DecidableEq, Repr

/-- The counter's modes (5.1). -/
inductive CycleMode where
  | free
  | marked
  deriving DecidableEq, Repr

/-- The cycle counter. `base` is the moment of the last cycle start, or of the beginning of counting:
the count is the whole ticks since then (R81). -/
structure CycleCounter where
  tick : Tick
  period : Nat
  mode : CycleMode
  base : Time
  number : Byte
  deriving DecidableEq, Repr

/-! ### Capture inputs (chapter 7) -/

/-- Capture modes (7.1). -/
inductive CaptureMode where
  | off
  | period
  | high
  | low
  | count
  deriving DecidableEq, Repr

/-- The active edge of PERIOD, and the direction of a seen edge. -/
inductive Edge where
  | rising
  | falling
  deriving DecidableEq, Repr

/-- The filter widths, in ticks (7.1). -/
inductive Filter where
  | f0
  | f2
  | f4
  | f8
  deriving DecidableEq, Repr

/-- Measurement states (7.1), with the moment of the opening edge where one is being timed (R121). -/
inductive Measure where
  | off
  | unarmed
  | armed (opened : Time)
  | waiting
  | timing (opened : Time)
  | counting
  deriving DecidableEq, Repr

/-- Capture result status (7.1). -/
inductive CaptureStatus where
  | empty
  | valid
  | overflow
  deriving DecidableEq, Repr

/-- A pending change of a filtered input: the new level and when it was first seen (R120). -/
structure PendingChange where
  level : Level
  since : Time
  deriving DecidableEq, Repr

/-- A capture input. `pin` is the level of the pin itself, an input of the part; `configuredAt`, the moment
of the last CONFIG_CAPTURE, is the model's own (R129, log 31). -/
structure Capture where
  pin : Level
  mode : CaptureMode
  edge : Option Edge
  filter : Filter
  filtered : Option Level
  change : Option PendingChange
  measure : Measure
  running : BitVec 16
  value : BitVec 16
  status : CaptureStatus
  seq : Byte
  configuredAt : Option Time
  deriving DecidableEq, Repr

/-! ### The sampler (chapter 8) -/

/-- Sampler modes (8.1). -/
inductive SamplerMode where
  | off
  | immediate
  | settled
  deriving DecidableEq, Repr

/-- Sampler trigger sources (8.1); NONE is the absent value. -/
inductive SamplerSource where
  | cycle
  | mark
  | capture (k : CapIn)
  deriving DecidableEq, Repr

/-- Scan states (8.1), with the scan position and the start of the step in progress. -/
inductive Scan where
  | off
  | ready
  | asleep
  | settling (since : Time)
  | converting (pos : Fin 4) (since : Time)
  deriving DecidableEq, Repr

/-- An analog input's result record and limit window (8.1). -/
structure Analog where
  value : BitVec 10
  valid : Bool
  seq : Byte
  low : BitVec 10
  high : BitVec 10
  trip : GroupSet
  outside : Bool
  deriving DecidableEq, Repr

/-- The sampler. -/
structure Sampler where
  mode : SamplerMode
  list : List AnIn
  source : Option SamplerSource
  scan : Scan
  overrun : Byte
  inputs : Vector Analog 4
  deriving DecidableEq, Repr

/-! ### The publish unit (chapter 9) -/

/-- A source item: kind and selector (9.1). -/
inductive SourceItem where
  | captureValue (k : CapIn)
  | captureSeq (k : CapIn)
  | sampleValue (k : AnIn)
  | channelActive (d : Chan)
  | groupState (g : Group)
  | cycle
  | fresh
  | const (v : Byte)
  deriving DecidableEq, Repr

/-- A publish map; its size is computed from the source list (9.2). -/
structure PubMap where
  first : Fin 32
  count : Fin 9
  deriving DecidableEq, Repr

/-- The last outcome of a buffer; NONE is the absent value. -/
inductive ServeOutcome where
  | served
  | conflict
  deriving DecidableEq, Repr

/-- A publish buffer record (9.2). -/
structure PubRecord where
  snapshot : List Byte
  snapshotSeqs : List (Option Byte)
  served : Vector (Option Byte) 8
  servedCount : BitVec 16
  outcome : Option ServeOutcome
  deriving DecidableEq, Repr

/-- The publish unit. -/
structure Publish where
  source : Vector SourceItem 32
  maps : Vector PubMap 8
  records : Vector PubRecord 8
  deriving DecidableEq, Repr

/-! ### The management unit (chapter 10) -/

/-- Results of a command (10.6); NONE is the absent value. -/
inductive CmdResult where
  | ok
  | badCode
  | badOperand
  | badLength
  | state
  | badEntry
  | notFound
  deriving DecidableEq, Repr

/-- The reply record (10.6). -/
structure ReplyRecord where
  result : Option CmdResult
  code : Option Byte
  seq : Option Seq
  data : List Byte
  deriving DecidableEq, Repr

/-- The management unit. The assigned flag is yes exactly when a station number is held (R163), so it
is computed: `State.assigned`. -/
structure Mgmt where
  station : Option (Fin 15)
  lastSeq : Option Seq
  reply : ReplyRecord
  rate : Rate
  quietLimit : Byte
  rejects : Byte
  deriving DecidableEq, Repr

/-! ### The event block (chapter 11) -/

/-- Event codes (11.1). -/
inductive EventCode where
  | lineQuiet
  | lineBack
  | lineStuck
  | downBreak
  | upConflict
  | downConflict
  | respTimeout
  | frameAbort
  | relayOverrun
  | fallback
  | groupRun
  | limit
  | swap
  | station
  | softReset
  deriving DecidableEq, Repr

/-- Event subjects (11.1). -/
inductive Subject where
  | none
  | port (p : Port)
  | group (g : Group)
  | analog (a : AnIn)
  deriving DecidableEq, Repr

/-- Event details (11.1): the payload that each code gives. -/
inductive Detail where
  | none
  | byte (b : Byte)
  | cause (c : Cause) (further : Bool)
  | started
  | recovered
  | limitLow
  | limitHigh
  | addressed
  | broadcast
  deriving DecidableEq, Repr

/-- What a posting rule gives: code, subject and detail (R183). -/
structure Posting where
  code : EventCode
  subject : Subject
  detail : Detail
  deriving DecidableEq, Repr

/-- An entry of the event queue (11.1). -/
structure Event where
  stamp : Byte
  code : EventCode
  subject : Subject
  cycle : Byte
  detail : Detail
  deriving DecidableEq, Repr

/-- The event block. -/
structure EventBlock where
  queue : List Event
  nextStamp : Byte
  lost : Byte
  deriving DecidableEq, Repr

/-! ### The whole state -/

/-- The spec names no fault that stops the part: a line fault ends its frame (R24), a bad command is
refused with a result (R168). So there is no constructor, and nothing raises a fault. -/
inductive Fault
  deriving DecidableEq, Repr

/-- Why a command has no meaning in a state. The last three are raised only for an EVENT that the
state rules out, so that the part cannot meet it there (log 3). All are safe: the model stops where
the part has no such behaviour. -/
inductive Refusal where
  /-- Raised by `exec`'s arm of a command that has no meaning yet. Safe. -/
  | notModelled (mnemonic : String)
  /-- Raised by an event's meaning when the unit is in a state where that event cannot occur. Safe. -/
  | outOfPlace
  /-- Raised by a timed event's meaning when its moment has not come. Safe. -/
  | notDue
  /-- Raised by an event's meaning when another event was due before it. Safe. -/
  | overdue
  deriving DecidableEq, Repr

/-- The state of the bridge. `now`, `draws`, `frames` and `pending` are the model's own, as are the fields
`id`, `frame`, `met` and `configuredAt` of its parts. -/
structure State where
  /-- Model time (log 1). -/
  now : Time
  /-- Free order choices drawn so far (logs 9 and 10). -/
  draws : Nat
  /-- Frame ids given so far (log 15). -/
  frames : Nat
  /-- The RESET pin is low, or power-on reset is in progress. -/
  inReset : Bool
  /-- The straps ST3..ST0 as last read (R164). -/
  straps : BitVec 4
  up : UpPort
  fc : FrameContext
  /-- The relay queue, oldest entry first (R26). -/
  relay : List RelayEntry
  down : DownPort
  tags : TagTable
  chans : Vector Channel 6
  groups : Vector GroupRec 4
  lastMark : LastMark
  cycle : CycleCounter
  caps : Vector Capture 4
  sampler : Sampler
  publish : Publish
  mgmt : Mgmt
  events : EventBlock
  /-- The commands that wait, first in, first out. -/
  pending : List Instr
  deriving DecidableEq, Repr

/-! ### Reset values -/

/-- R19: the frame context after reset. -/
def FrameContext.reset : FrameContext :=
  { state := .done, span := none, head := none, addr := none, lengthByte := none, copy := none,
    forward := none, answer := none, relay := none, count := none, seq := none, data := [], sum := 0,
    outcome := none, noLocal := false, ref := 0, relayAgrees := none, relayEnded := false, id := 0 }

/-- R38. -/
def UpCounts.zero : UpCounts :=
  { framesOk := 0, rate := 0, format := 0, framing := 0, gap := 0, length := 0, check := 0,
    mismatch := 0, repeats := 0, conflict := 0, stray := 0 }

/-- R38. -/
def DownCounts.zero : DownCounts :=
  { framesOk := 0, check := 0, framing := 0, gap := 0, timeout := 0, conflict := 0, foreign := 0 }

/-- R17, R37, R40. -/
def UpPort.reset : UpPort :=
  { rx := .idle, start := none, tx := none, resp := [], counts := .zero, quiet := .off, quietSince := 0,
    met := none }

/-- R40. -/
def DownPort.reset : DownPort :=
  { state := .idle, cur := none, since := 0, tbit := 0, frame := 0, addr := 0, abandoned := false,
    respLeft := 0, respSum := 0, low := none, heardFrom := none, counts := .zero }

/-- R42. -/
def TagEntry.reset : TagEntry :=
  { role := .relay, forward := .down, expected := .any, unpackFirst := 0, unpackCount := 0,
    commitAfter := false, filter := 0, cycleSync := false, buffer := 0 }

/-- R42. -/
def Descriptor.reset : Descriptor := { offset := 0, size := .one, chan := 0, param := .setpoint }

/-- R42. -/
def Bank.reset : Bank :=
  { entries := Vector.replicate 64 .reset, descriptors := Vector.replicate 48 .reset }

/-- R50. -/
def Runtime.reset : Runtime := { lastSeq := none, accepted := 0, lastGeneration := none }

/-- R42 and R50. -/
def TagTable.reset : TagTable :=
  { active := .reset, shadow := .reset, generation := 0, runtime := Vector.replicate 64 .reset }

/-- R85. -/
def ChanConfig.reset : ChanConfig :=
  { mode := .off, group := 0, polarity := .activeHigh, leader := none, trigger := none,
    retrigger := none, action := .idle }

/-- R60 and R85. -/
def Channel.reset : Channel :=
  { config := .reset, stage := { setpoint := none, delay := none, source := none, overwrite := 0 },
    clamp := 0, armed := { setpoint := none, delay := none }, active := { setpoint := 0, delay := 0 },
    shot := .idle, latch := false, phase := false, override := .none, ignored := 0 }

/-- R61 and R103: MARK and MGMT are bits 0 and 2 of the source set. -/
def GroupRec.reset : GroupRec :=
  { state := .stopped, hold := 0, reason := none, endPending := false, sources := 5, holdLimit := 0,
    quietTrip := false, discard := 0 }

/-- R61. -/
def LastMark.reset : LastMark := { cycle := none, groups := 0 }

/-- R80, with counting that begins at the given moment. -/
def CycleCounter.resetAt (now : Time) : CycleCounter :=
  { tick := .us10, period := 1000, mode := .free, base := now, number := 0 }

/-- R118, on a pin that stands at the given level. -/
def Capture.resetAt (pin : Level) : Capture :=
  { pin := pin, mode := .off, edge := none, filter := .f0, filtered := none, change := none,
    measure := .off, running := 0, value := 0, status := .empty, seq := 0, configuredAt := none }

/-- R132. -/
def Analog.reset : Analog :=
  { value := 0, valid := false, seq := 0, low := 0, high := 1023, trip := 0, outside := false }

/-- R132. -/
def Sampler.reset : Sampler :=
  { mode := .off, list := [], source := none, scan := .off, overrun := 0,
    inputs := Vector.replicate 4 .reset }

/-- R151. -/
def PubRecord.reset : PubRecord :=
  { snapshot := [], snapshotSeqs := [], served := Vector.replicate 8 none, servedCount := 0,
    outcome := none }

/-- R148, R150, R151. -/
def Publish.reset : Publish :=
  { source := Vector.replicate 32 (.const 0), maps := Vector.replicate 8 { first := 0, count := 0 },
    records := Vector.replicate 8 .reset }

/-- R170. -/
def ReplyRecord.reset : ReplyRecord := { result := none, code := none, seq := none, data := [] }

/-- R164: a strap value of 0-14 is a station number, 15 is none. -/
def stationOfStraps (straps : BitVec 4) : Option (Fin 15) :=
  if h : straps.toNat < 15 then some ⟨straps.toNat, h⟩ else none

/-- R163 and R181, with the straps as read. -/
def Mgmt.resetWith (straps : BitVec 4) : Mgmt :=
  { station := stationOfStraps straps, lastSeq := none, reply := .reset, rate := .r9600,
    quietLimit := 0, rejects := 0 }

/-- R182. -/
def EventBlock.reset : EventBlock := { queue := [], nextStamp := 0, lost := 0 }

/-- The part right after pin or power reset, with all straps open, so unassigned (DESIGN CHOICE, log
5), the capture pins low (DESIGN CHOICE, log 6), both wires high, and model time 0. -/
def State.reset : State :=
  { now := 0, draws := 0, frames := 0, inReset := false, straps := 15, up := .reset, fc := .reset,
    relay := [], down := .reset, tags := .reset, chans := Vector.replicate 6 .reset,
    groups := Vector.replicate 4 .reset, lastMark := .reset, cycle := .resetAt 0,
    caps := Vector.replicate 4 (.resetAt .low), sampler := .reset, publish := .reset,
    mgmt := .resetWith 15, events := .reset, pending := [] }

end Sys2Proof.Machine
end

