-- ==== Sys2Proof/Machine/Codes.lean ====
section
/-!
DEFINITION. The byte formats of chapter 12: the address and length bytes, the code values of 12.4, the
command codes of 12.5, and the bytes of event entries and reply records.
-/

namespace Sys2Proof.Machine

/-! ### Bytes and numbers -/

/-- R191: a one-byte number operand below a bound. -/
def finOf (n : Nat) (b : Byte) : Option (Fin n) :=
  if h : b.toNat < n then some ⟨b.toNat, h⟩ else none

/-- R191: a two-byte number operand, high byte first. -/
def wordOf (high low : Byte) : Nat := 256 * high.toNat + low.toNat

/-- A number as one byte. -/
def byteOf (n : Nat) : Byte := BitVec.ofNat 8 n

/-- A number as two bytes, high byte first (12, opening paragraph). -/
def twoBytes (n : Nat) : List Byte := [byteOf (n / 256), byteOf n]

/-- A yes or no as a byte. -/
def flagByte (b : Bool) : Byte := if b then 1 else 0

/-- A one-byte field with NONE shown as 0xFF (R192). -/
def orNone (b : Option Byte) : Byte := b.getD 0xFF

/-- A two-byte field with absent shown as 0xFFFF (R192). -/
def orAbsent (v : Option Value12) : List Byte :=
  match v with
  | some v => twoBytes v.toNat
  | none => [0xFF, 0xFF]

/-- R191: a mask or set operand names nothing beyond bits 0-3. -/
def maskOk (b : Byte) : Bool := decide (b.extractLsb' 4 4 = 0)

/-- R191: the groups, or commit sources, that a mask names. -/
def maskOf (b : Byte) : GroupSet := b.extractLsb' 0 4

/-- A mask as a byte. -/
def maskByte (m : GroupSet) : Byte := m.zeroExtend 8

/-! ### The frame header (12.1) -/

/-- R9: what an address byte names; none for an undefined MGMT function and for a REPLY to station 15. -/
def headOf (b : Byte) : Option Head :=
  let tag : Tag := (b.extractLsb' 0 6).toFin
  let station : Fin 16 := (b.extractLsb' 0 4).toFin
  match (b.extractLsb' 6 2).toNat with
  | 0 => some (.tagged .put tag)
  | 1 => some (.tagged .get tag)
  | 2 => some (.tagged .mark tag)
  | _ =>
    match (b.extractLsb' 4 2).toNat with
    | 0 => some (.mgmt .command station)
    | 1 => if station = 15 then none else some (.mgmt .reply station)
    | _ => none

/-- 12.1: the address byte of a header. -/
def headByte : Head → Byte
  | .tagged .put tag => byteOf tag.val
  | .tagged .get tag => byteOf (64 + tag.val)
  | .tagged .mark tag => byteOf (128 + tag.val)
  | .mgmt .command station => byteOf (192 + station.val)
  | .mgmt .reply station => byteOf (208 + station.val)

/-- R10: the count field of a length byte, as coded. -/
def countOf (b : Byte) : Nat := (b.extractLsb' 0 5).toNat

/-- R10: the sequence field of a length byte. -/
def seqOf (b : Byte) : Seq := b.extractLsb' 5 3

/-- 12.1: the length byte of a count and a sequence. -/
def lengthByteOf (count : Fin 17) (seq : Seq) : Byte := byteOf (32 * seq.toNat + count.val)

/-- R12: the check byte over a running sum. -/
def checkOf (sum : Byte) : Byte := 255 - sum

/-! ### Code values (12.4) -/

/-- 12.4, rate. -/
def rateCode : Rate → Byte
  | .r4800 => 0
  | .r9600 => 1
  | .r19200 => 2

/-- 12.4, rate. -/
def rateOf (b : Byte) : Option Rate :=
  match b.toNat with
  | 0 => some .r4800
  | 1 => some .r9600
  | 2 => some .r19200
  | _ => none

/-- 12.4, tick. -/
def tickCode : Tick → Byte
  | .us1 => 0
  | .us2 => 1
  | .us5 => 2
  | .us10 => 3

/-- 12.4, tick. -/
def tickOf (b : Byte) : Option Tick :=
  match b.toNat with
  | 0 => some .us1
  | 1 => some .us2
  | 2 => some .us5
  | 3 => some .us10
  | _ => none

/-- 12.4, cycle mode. -/
def cycleModeCode : CycleMode → Byte
  | .free => 0
  | .marked => 1

/-- 12.4, cycle mode. -/
def cycleModeOf (b : Byte) : Option CycleMode :=
  match b.toNat with
  | 0 => some .free
  | 1 => some .marked
  | _ => none

/-- 12.4, role. -/
def roleCode : Role → Byte
  | .relay => 0
  | .block => 1
  | .consume => 2
  | .publish => 3
  | .marker => 4

/-- 12.4, role. -/
def roleOf (b : Byte) : Option Role :=
  match b.toNat with
  | 0 => some .relay
  | 1 => some .block
  | 2 => some .consume
  | 3 => some .publish
  | 4 => some .marker
  | _ => none

/-- 12.4, forward. -/
def forwardCode : Forward → Byte
  | .none => 0
  | .down => 1

/-- 12.4, forward. -/
def forwardOf (b : Byte) : Option Forward :=
  match b.toNat with
  | 0 => some .none
  | 1 => some .down
  | _ => none

/-- 12.4, expected length. -/
def expectedCode : ExpectedLength → Byte
  | .any => 0xFF
  | .exactly n => byteOf n.val

/-- 12.4, expected length. -/
def expectedOf (b : Byte) : Option ExpectedLength :=
  if b = 0xFF then some .any else (finOf 17 b).map .exactly

/-- 12.4, bank: is it the SHADOW bank? -/
def bankIsShadow (b : Byte) : Option Bool :=
  match b.toNat with
  | 0 => some false
  | 1 => some true
  | _ => none

/-- 12.4, channel mode. -/
def chanModeOf (b : Byte) : Option ChanMode :=
  match b.toNat with
  | 0 => some .off
  | 1 => some .level
  | 2 => some .width
  | 3 => some .oneshot
  | 4 => some .follow
  | _ => none

/-- 12.4, polarity. -/
def polarityOf (b : Byte) : Option Polarity :=
  match b.toNat with
  | 0 => some .activeHigh
  | 1 => some .activeLow
  | _ => none

/-- 12.4: the capture input of a CAPTURE k code, 0x10 + k. -/
def captureCodeOf (b : Byte) : Option CapIn :=
  if b.extractLsb' 4 4 = 1 then finOf 4 (b - 0x10) else none

/-- 12.4, channel trigger. -/
def chanTriggerOf (b : Byte) : Option ChanTrigger :=
  match b.toNat with
  | 0 => some .commit
  | 1 => some .cycle
  | _ => (captureCodeOf b).map .capture

/-- 12.4, retrigger. -/
def retriggerOf (b : Byte) : Option Retrigger :=
  match b.toNat with
  | 0 => some .ignore
  | 1 => some .restart
  | _ => none

/-- 12.4, fallback action. -/
def actionOf (b : Byte) : Option Action :=
  match b.toNat with
  | 0 => some .idle
  | 1 => some .active
  | 2 => some .hold
  | _ => none

/-- 12.4, quiet trip. -/
def quietTripOf (b : Byte) : Option Bool :=
  match b.toNat with
  | 0 => some false
  | 1 => some true
  | _ => none

/-- 12.4, group state. -/
def groupStateCode : GroupState → Byte
  | .stopped => 0
  | .run => 1
  | .fallback => 2
  | .resuming => 3

/-- 12.4, fallback reason. -/
def causeCode : Cause → Byte
  | .hold => 1
  | .quiet => 2
  | .limit => 3

/-- 12.4, fallback reason, NONE 0. -/
def reasonCode : Option Cause → Byte
  | none => 0
  | some c => causeCode c

/-- 12.4, quiet state. -/
def quietStateCode : QuietState → Byte
  | .off => 0
  | .running => 1
  | .expired => 2

/-- 12.4, capture mode. -/
def captureModeCode : CaptureMode → Byte
  | .off => 0
  | .period => 1
  | .high => 2
  | .low => 3
  | .count => 4

/-- 12.4, capture mode. -/
def captureModeOf (b : Byte) : Option CaptureMode :=
  match b.toNat with
  | 0 => some .off
  | 1 => some .period
  | 2 => some .high
  | 3 => some .low
  | 4 => some .count
  | _ => none

/-- 12.4, edge. -/
def edgeCode : Edge → Byte
  | .rising => 0
  | .falling => 1

/-- 12.4, edge. -/
def edgeOf (b : Byte) : Option Edge :=
  match b.toNat with
  | 0 => some .rising
  | 1 => some .falling
  | _ => none

/-- 12.4, filter: the width itself, in ticks. -/
def Filter.width : Filter → Nat
  | .f0 => 0
  | .f2 => 2
  | .f4 => 4
  | .f8 => 8

/-- 12.4, filter. -/
def filterOf (b : Byte) : Option Filter :=
  match b.toNat with
  | 0 => some .f0
  | 2 => some .f2
  | 4 => some .f4
  | 8 => some .f8
  | _ => none

/-- 12.4, measurement state. -/
def measureCode : Measure → Byte
  | .off => 0
  | .unarmed => 1
  | .armed _ => 2
  | .waiting => 3
  | .timing _ => 4
  | .counting => 5

/-- 12.4, capture status. -/
def captureStatusCode : CaptureStatus → Byte
  | .empty => 0
  | .valid => 1
  | .overflow => 2

/-- 12.5, the filtered level (LOW 0, HIGH 1). -/
def levelCode : Level → Byte
  | .low => 0
  | .high => 1

/-- 12.4, sampler mode. -/
def samplerModeCode : SamplerMode → Byte
  | .off => 0
  | .immediate => 1
  | .settled => 2

/-- 12.4, sampler mode. -/
def samplerModeOf (b : Byte) : Option SamplerMode :=
  match b.toNat with
  | 0 => some .off
  | 1 => some .immediate
  | 2 => some .settled
  | _ => none

/-- 12.4, sampler trigger source. -/
def samplerSourceCode : Option SamplerSource → Byte
  | none => 0
  | some .cycle => 1
  | some .mark => 2
  | some (.capture k) => byteOf (0x10 + k.val)

/-- 12.4, sampler trigger source; the outer none is an undefined code, the inner one the source NONE. -/
def samplerSourceOf (b : Byte) : Option (Option SamplerSource) :=
  match b.toNat with
  | 0 => some none
  | 1 => some (some .cycle)
  | 2 => some (some .mark)
  | _ => (captureCodeOf b).map fun k => some (.capture k)

/-- 12.4, scan state. -/
def scanCode : Scan → Byte
  | .off => 0
  | .ready => 1
  | .asleep => 2
  | .settling _ => 3
  | .converting _ _ => 4

/-- 12.4, source kind. -/
def sourceKindCode : SourceItem → Byte
  | .captureValue _ => 0
  | .captureSeq _ => 1
  | .sampleValue _ => 2
  | .channelActive _ => 3
  | .groupState _ => 4
  | .cycle => 5
  | .fresh => 6
  | .const _ => 7

/-- R161 and 12.5: the selector of an item, NONE for CYCLE and FRESH. -/
def sourceSelector : SourceItem → Option Byte
  | .captureValue k => some (byteOf k.val)
  | .captureSeq k => some (byteOf k.val)
  | .sampleValue k => some (byteOf k.val)
  | .channelActive d => some (byteOf d.val)
  | .groupState g => some (byteOf g.val)
  | .cycle => none
  | .fresh => none
  | .const v => some v

/-- R152: the item of a kind and a selector; none where the selector is out of range for the kind, or
the kind is undefined. -/
def sourceItemOf (kind selector : Byte) : Option SourceItem :=
  match kind.toNat with
  | 0 => (finOf 4 selector).map .captureValue
  | 1 => (finOf 4 selector).map .captureSeq
  | 2 => (finOf 4 selector).map .sampleValue
  | 3 => (finOf 6 selector).map .channelActive
  | 4 => (finOf 4 selector).map .groupState
  | 5 => some .cycle
  | 6 => some .fresh
  | 7 => some (.const selector)
  | _ => none

/-- 12.4, last outcome. -/
def serveOutcomeCode : Option ServeOutcome → Byte
  | none => 0
  | some .served => 2
  | some .conflict => 3

/-- R192, result. -/
def resultCode : Option CmdResult → Byte
  | some .ok => 0
  | some .badCode => 1
  | some .badOperand => 2
  | some .badLength => 3
  | some .state => 4
  | some .badEntry => 5
  | some .notFound => 6
  | none => 0xFF

/-! ### Unpack descriptors (R191) -/

/-- The two bytes of a descriptor. -/
def descriptorBytes (d : Descriptor) : List Byte :=
  let size := match d.size with
    | .one => 1
    | .two => 2
  let param := match d.param with
    | .setpoint => 0
    | .delay => 1
  [byteOf d.offset.val, byteOf (d.chan.val + 8 * size + 32 * param)]

/-- The packed second byte of a descriptor: channel, size, parameter; none where a field is out of
range or bit 7 is set. -/
def packedOf (b : Byte) : Option (Chan × ValueSize × Param) :=
  let chan := (b.extractLsb' 0 3).toNat
  if h : chan < 6 then
    match (b.extractLsb' 3 2).toNat, (b.extractLsb' 5 3).toNat with
    | 1, 0 => some (⟨chan, h⟩, .one, .setpoint)
    | 1, 1 => some (⟨chan, h⟩, .one, .delay)
    | 2, 0 => some (⟨chan, h⟩, .two, .setpoint)
    | 2, 1 => some (⟨chan, h⟩, .two, .delay)
    | _, _ => none
  else none

/-- A descriptor from its two bytes. -/
def descriptorOf (offset packed : Byte) : Option Descriptor :=
  match finOf 16 offset, packedOf packed with
  | some o, some (c, size, param) => some { offset := o, size := size, chan := c, param := param }
  | _, _ => none

/-! ### Commands (12.5) -/

/-- The 33 commands of 10.10. -/
inductive CmdCode where
  | ping
  | readStatus
  | readCounts
  | clearCounts
  | setLine
  | assignStation
  | unassign
  | softReset
  | writeTag
  | readTag
  | writeUnpack
  | readUnpack
  | swapBanks
  | copyBank
  | configCycle
  | configChannel
  | configGroup
  | groupStart
  | groupStop
  | groupResume
  | commit
  | readChannel
  | configCapture
  | readCapture
  | configSampler
  | setLimits
  | sampleNow
  | readSamples
  | writeSource
  | writePubmap
  | readPublish
  | eventRead
  | eventAck
  deriving DecidableEq, Repr

/-- 12.5, the command code. -/
def cmdByte : CmdCode → Byte
  | .ping => 0x01
  | .readStatus => 0x02
  | .readCounts => 0x03
  | .clearCounts => 0x04
  | .setLine => 0x05
  | .assignStation => 0x06
  | .unassign => 0x07
  | .softReset => 0x08
  | .writeTag => 0x10
  | .readTag => 0x11
  | .writeUnpack => 0x12
  | .readUnpack => 0x13
  | .swapBanks => 0x14
  | .copyBank => 0x15
  | .configCycle => 0x20
  | .configChannel => 0x21
  | .configGroup => 0x22
  | .groupStart => 0x23
  | .groupStop => 0x24
  | .groupResume => 0x25
  | .commit => 0x26
  | .readChannel => 0x27
  | .configCapture => 0x30
  | .readCapture => 0x31
  | .configSampler => 0x32
  | .setLimits => 0x33
  | .sampleNow => 0x34
  | .readSamples => 0x35
  | .writeSource => 0x40
  | .writePubmap => 0x41
  | .readPublish => 0x42
  | .eventRead => 0x50
  | .eventAck => 0x51

/-- The commands in the order of 12.5. -/
def allCmds : List CmdCode :=
  [.ping, .readStatus, .readCounts, .clearCounts, .setLine, .assignStation, .unassign,
   .softReset, .writeTag, .readTag, .writeUnpack, .readUnpack, .swapBanks, .copyBank,
   .configCycle, .configChannel, .configGroup, .groupStart, .groupStop, .groupResume, .commit,
   .readChannel, .configCapture, .readCapture, .configSampler, .setLimits, .sampleNow,
   .readSamples, .writeSource, .writePubmap, .readPublish, .eventRead, .eventAck]

/-- 12.5: the command of a code; none for an undefined code. -/
def cmdOf (b : Byte) : Option CmdCode := allCmds.find? fun c => cmdByte c == b

/-- 12.5, Len: the operand length of a command; WRITE_UNPACK's is its fixed part (R168). -/
def cmdLength : CmdCode → Nat
  | .ping => 0
  | .readStatus => 0
  | .readCounts => 1
  | .clearCounts => 0
  | .setLine => 2
  | .assignStation => 1
  | .unassign => 0
  | .softReset => 0
  | .writeTag => 10
  | .readTag => 2
  | .writeUnpack => 2
  | .readUnpack => 3
  | .swapBanks => 0
  | .copyBank => 0
  | .configCycle => 4
  | .configChannel => 8
  | .configGroup => 4
  | .groupStart => 1
  | .groupStop => 1
  | .groupResume => 1
  | .commit => 1
  | .readChannel => 2
  | .configCapture => 4
  | .readCapture => 1
  | .configSampler => 7
  | .setLimits => 6
  | .sampleNow => 0
  | .readSamples => 2
  | .writeSource => 3
  | .writePubmap => 3
  | .readPublish => 3
  | .eventRead => 0
  | .eventAck => 1

/-- R169: the five commands that a broadcast may execute. -/
def cmdByBroadcast : CmdCode → Bool
  | .commit => true
  | .groupStop => true
  | .softReset => true
  | .ping => true
  | .assignStation => true
  | _ => false

/-! ### Event entries (R193) -/

/-- R193, code. -/
def eventCode : EventCode → Byte
  | .lineQuiet => 1
  | .lineBack => 2
  | .lineStuck => 3
  | .downBreak => 4
  | .upConflict => 5
  | .downConflict => 6
  | .respTimeout => 7
  | .frameAbort => 8
  | .relayOverrun => 9
  | .fallback => 10
  | .groupRun => 11
  | .limit => 12
  | .swap => 13
  | .station => 14
  | .softReset => 15

/-- R193, subject. -/
def subjectByte : Subject → Byte
  | .none => 0xFF
  | .port .up => 0x00
  | .port .down => 0x01
  | .group g => byteOf (0x10 + g.val)
  | .analog a => byteOf (0x20 + a.val)

/-- R193, detail. -/
def detailByte : Detail → Byte
  | .none => 0xFF
  | .byte b => b
  | .cause c further => causeCode c + (if further then 0x80 else 0)
  | .started => 0
  | .recovered => 1
  | .limitLow => 0
  | .limitHigh => 1
  | .addressed => 0
  | .broadcast => 1

/-- R193: the five bytes of an event entry. -/
def eventBytes (e : Event) : List Byte :=
  [e.stamp, eventCode e.code, subjectByte e.subject, e.cycle, detailByte e.detail]

/-- R192: the bytes of the reply record, before it is cut or padded. -/
def replyRecordBytes (r : ReplyRecord) : List Byte :=
  resultCode r.result :: r.code.getD 0 :: orNone (r.seq.map (·.zeroExtend 8)) :: r.data

end Sys2Proof.Machine
end

