-- ==== Sys2Proof/Machine/Ops.lean ====
section
/-!
DEFINITION. The operations that every block shares: time, counters, access to one record of a block,
posting an event (R183), and a frame's pass (R20, R37).
-/

namespace Sys2Proof.Machine

/-- What a command's meaning answers. -/
abbrev Out := Host.Outcome State Fault Refusal

/-! ### Time (log 1) -/

/-- Lets model time pass. -/
def State.after (dt : Time) (s : State) : State := { s with now := s.now + dt }

/-- A number of microseconds. -/
def micros (n : Nat) : Time := 12 * n

/-- R2: the nominal Tbit of a rate; 1/4800 s is 2500 twelfths of a microsecond. -/
def Rate.tbit : Rate → Time
  | .r4800 => 2500
  | .r9600 => 1250
  | .r19200 => 625

/-- The nominal Tbit in force. -/
def State.nominal (s : State) : Time := s.mgmt.rate.tbit

/-- 5.1: the length of one tick. -/
def Tick.length : Tick → Time
  | .us1 => micros 1
  | .us2 => micros 2
  | .us5 => micros 5
  | .us10 => micros 10

/-- R81: the count, the whole ticks since the last cycle start; 0 while RESET is low, when the counter
does not count (R80). -/
def State.count (s : State) : Nat :=
  if s.inReset then 0 else (s.now - s.cycle.base) / s.cycle.tick.length

/-- A command reaches the part at the moment `dt` after the command before it. While RESET is low,
every block has stopped taking events (R40), so nothing but time changes (log 4). -/
def live (dt : Time) (s : State) (f : State → Out) : Out :=
  if s.inReset then .next (s.after dt) else f (s.after dt)

/-! ### Lows (R3) -/

/-- The low has not reached 13 nominal Tbit. -/
def LowTimer.isShort (low : LowTimer) (now : Time) : Bool := decide (now - low.since < 13 * low.tbit)

/-- The low has lasted 13 to 200 nominal Tbit, both included. -/
def LowTimer.isBreak (low : LowTimer) (now : Time) : Bool :=
  decide (13 * low.tbit ≤ now - low.since) && decide (now - low.since ≤ 200 * low.tbit)

/-- The low has passed 200 nominal Tbit. -/
def LowTimer.isStuck (low : LowTimer) (now : Time) : Bool := decide (200 * low.tbit < now - low.since)

/-- A low that begins at this moment, timed in the nominal Tbit in force (R2). -/
def State.lowNow (s : State) : LowTimer := { since := s.now, tbit := s.nominal }

/-- A low that has lasted for `length` at this moment, timed from its falling edge (R3). -/
def State.lowFor (length : Time) (s : State) : LowTimer :=
  { since := s.now - length, tbit := s.nominal }

/-! ### Counters -/

/-- A saturating counter's increment. -/
def satInc {n : Nat} (c : BitVec n) : BitVec n := if c = BitVec.allOnes n then c else c + 1

/-- One more of a UP counter. -/
def State.countUp (f : UpCounts → UpCounts) (s : State) : State :=
  { s with up := { s.up with counts := f s.up.counts } }

/-- One more of a DOWN counter. -/
def State.countDown (f : DownCounts → DownCounts) (s : State) : State :=
  { s with down := { s.down with counts := f s.down.counts } }

/-- UP MISMATCH, one more (R46, R47, R154). -/
def State.countMismatch (s : State) : State :=
  s.countUp fun c => { c with mismatch := satInc c.mismatch }

/-- UP REPEAT, one more (R48, R166). -/
def State.countRepeat (s : State) : State :=
  s.countUp fun c => { c with repeats := satInc c.repeats }

/-! ### One record of a block -/

/-- All groups, in the order G0 to G3. -/
def allGroups : List Group := [0, 1, 2, 3]

/-- All channels, in the order D0 to D5. -/
def allChans : List Chan := [0, 1, 2, 3, 4, 5]

/-- All tags, in rising order. -/
def allTags : List Tag := List.finRange 64

/-- Is the group in the set? -/
def GroupSet.has (m : GroupSet) (g : Group) : Bool := m.getLsbD g.val

/-- The set of the groups for which a test holds. -/
def groupSetOf (p : Group → Bool) : GroupSet :=
  (if p 0 then 1 else 0) ||| (if p 1 then 2 else 0) ||| (if p 2 then 4 else 0) ||| (if p 3 then 8 else 0)

/-- Writes one channel. -/
def State.setChan (d : Chan) (c : Channel) (s : State) : State := { s with chans := s.chans.set d c }

/-- Writes one group. -/
def State.setGroup (g : Group) (r : GroupRec) (s : State) : State := { s with groups := s.groups.set g r }

/-- Writes one capture input. -/
def State.setCap (k : CapIn) (c : Capture) (s : State) : State := { s with caps := s.caps.set k c }

/-- Applies a function to every channel. -/
def mapChans (f : Channel → Channel) (v : Vector Channel 6) : Vector Channel 6 :=
  #v[f v[0], f v[1], f v[2], f v[3], f v[4], f v[5]]

/-- Applies a function to every group. -/
def mapGroups (f : GroupRec → GroupRec) (v : Vector GroupRec 4) : Vector GroupRec 4 :=
  #v[f v[0], f v[1], f v[2], f v[3]]

/-- Applies a function to every capture input. -/
def mapCaps (f : Capture → Capture) (v : Vector Capture 4) : Vector Capture 4 :=
  #v[f v[0], f v[1], f v[2], f v[3]]

/-- A group's state. -/
def State.groupState (g : Group) (s : State) : GroupState := s.groups[g].state

/-- R163: the assigned flag. -/
def State.assigned (s : State) : Bool := s.mgmt.station.isSome

/-! ### Posting an event (R183) -/

/-- R183: the entry takes the next stamp; a full queue gives up its oldest entry and counts it lost. -/
def EventBlock.post (cycle : Byte) (p : Posting) (b : EventBlock) : EventBlock :=
  let entry : Event :=
    { stamp := b.nextStamp, code := p.code, subject := p.subject, cycle := cycle, detail := p.detail }
  if b.queue.length < 16 then
    { b with queue := b.queue ++ [entry], nextStamp := b.nextStamp + 1 }
  else
    { queue := b.queue.drop 1 ++ [entry], nextStamp := b.nextStamp + 1, lost := satInc b.lost }

/-- Posts one event, with the local cycle number as it stands. -/
def State.post (p : Posting) (s : State) : State := { s with events := s.events.post s.cycle.number p }

/-- Posts events in order. -/
def State.postAll (ps : List Posting) (s : State) : State := ps.foldl (fun s p => s.post p) s

/-- Two lists merged, each kept in its own order; `pick` says whether the next comes from the first. -/
def interleave (pick : Nat → Bool) : Nat → List Posting → List Posting → List Posting
  | 0, xs, ys => xs ++ ys
  | _ + 1, [], ys => ys
  | _ + 1, xs, [] => xs
  | n + 1, x :: xs, y :: ys =>
    if pick n then x :: interleave pick n xs (y :: ys) else y :: interleave pick n (x :: xs) ys

/-- The postings of two units at one moment, in an order that the manual leaves open (log 10). -/
def State.eitherOrder (xs ys : List Posting) (s : State) : List Posting :=
  interleave (Config.firstUnitPosts s.draws) (xs.length + ys.length) xs ys

/-- A free choice of order has been drawn. -/
def State.drawn (s : State) : State := { s with draws := s.draws + 1 }

/-- The postings of two units at one moment join the event queue. -/
def State.postBoth (xs ys : List Posting) (s : State) : State := s.drawn.postAll (s.eitherOrder xs ys)

/-! ### A frame's pass -/

/-- R37: the quiet state that a restart of the timer gives under a limit. -/
def quietUnder (limit : Byte) : QuietState := if limit = 0 then .off else .running

/-- R37: the quiet timer restarts from this moment, with the limit in force. -/
def State.restartQuiet (s : State) : State :=
  { s with up := { s.up with quiet := quietUnder s.mgmt.quietLimit, quietSince := s.now } }

/-- R37: the posting of the end of a silence. -/
def lineBackPosting : Posting := { code := .lineBack, subject := .port .up, detail := .none }

/-- R37: LINE_BACK is posted at a pass if the quiet timer had expired. -/
def State.backPostings (s : State) : List Posting :=
  if s.up.quiet = .expired then [lineBackPosting] else []

/-- R37: the quiet limit as a time. -/
def quietTime (limit : Byte) : Time := limit.toNat * micros 10000

/-- R37: the moment at which the running quiet timer expires is this one, so that its expiry meets a pass
that is taken now (R63, log 30). -/
def State.meetsExpiry (s : State) : Option MetExpiry :=
  if s.up.quiet = .running ∧ s.now = s.up.quietSince + quietTime s.mgmt.quietLimit then
    some { moment := s.now, limit := s.mgmt.quietLimit }
  else none

/-- R20: UP FRAMES_OK counts the frame and the quiet timer restarts; the posting of R37 is left to do. -/
def State.passed (s : State) : State :=
  let t : State := { s with up := { s.up with met := s.meetsExpiry } }
  (t.countUp fun c => { c with framesOk := satInc c.framesOk }).restartQuiet

/-- R20 and R37: a frame passes. -/
def State.pass (s : State) : State := s.passed.postAll s.backPostings

end Sys2Proof.Machine
end

