-- ==== Sys2Proof/Machine/Relay.lean ====
section
/-!
DEFINITION. The relay path (chapter 2): joining and leaving the relay queue, abandoning a relay (R28),
the DOWN transmitter, the bytes sent on UP, and how a frame ends.
-/

namespace Sys2Proof.Machine

/-! ### The frame context -/

/-- A frame is in flight while its context is in any state but DONE (R17). -/
def State.inFlight (s : State) : Bool := decide (s.fc.state ≠ .done)

/-- The frame is in a state in which the bridge follows it as a receiver (R25). -/
def FcState.receiving : FcState → Bool
  | .rate => true
  | .address => true
  | .length => true
  | .data => true
  | .check => true
  | .responding => false
  | .relayResponse => false
  | .done => false

/-- The frame context goes to DONE with an outcome (R19). -/
def State.finish (outcome : FrameOutcome) (s : State) : State :=
  { s with fc := { s.fc with state := .done, outcome := some outcome } }

/-- The UP receiver's state is set, and no byte is under way. -/
def State.setRx (rx : Rx) (s : State) : State := { s with up := { s.up with rx := rx, start := none } }

/-- Seven measured Tbit of the frame in flight (R6). -/
def FrameContext.pace (fc : FrameContext) : Time := fc.span.getD 0

/-- The detail of an event that carries the frame's address byte, or NONE (R25). -/
def addrDetail : Option Byte → Detail
  | some b => .byte b
  | none => .none

/-! ### Abandoning a relay (R28) -/

/-- R28: the frame's entries leave the queue; entries of other frames keep their order. -/
def State.dropEntries (frame : Nat) (s : State) : State :=
  { s with relay := s.relay.filter fun e => e.frame != frame }

/-- R28: the frame's relay becomes DROPPED, and a context still in RELAY_RESPONSE ends RELAY_FAILED. -/
def State.dropRelay (frame : Nat) (s : State) : State :=
  if s.fc.id = frame then
    let fc := { s.fc with relay := s.fc.relay.map fun _ => .dropped }
    if s.fc.state = .relayResponse then
      { s with fc := { fc with state := .done, outcome := some .relayFailed } }
    else { s with fc := fc }
  else s

/-- R28 and R41: what the DOWN port does when the frame it works on is given up: an element in progress
is completed, a wait, a delimiter and a listening end at once. A low that is under way where a response
was awaited or read keeps its falling edge (R3, log 33). -/
def DownPort.giveUp (d : DownPort) : DownPort :=
  match d.state with
  | .sendingBreak => { d with abandoned := true }
  | .rate => { d with abandoned := true }
  | .sending => if d.cur.isSome then { d with abandoned := true } else { d with state := .idle }
  | .delimiter => { d with state := .idle }
  | .listen => { d with state := .idle, heardFrom := some d.since }
  | .receive => { d with state := .idle, heardFrom := some d.since }
  | .idle => d
  | .foreignLow => d
  | .stuck => d

/-- R28: the relay of a frame is abandoned. -/
def State.abandon (frame : Nat) (s : State) : State :=
  let t := (s.dropEntries frame).dropRelay frame
  if t.down.frame = frame then { t with down := t.down.giveUp } else t

/-- R32: one more DOWN conflict. -/
def State.countDownConflict (s : State) : State :=
  s.countDown fun c => { c with conflict := satInc c.conflict }

/-- R32: while DOWN is stuck, every frame whose OPEN entry reaches the queue head is dropped. -/
def State.stuckDrops : Nat → State → State
  | 0, s => s
  | n + 1, s =>
    match s.relay with
    | [] => s
    | e :: _ => if e.marker = .opening then stuckDrops n (s.countDownConflict.abandon e.frame) else s

/-- R32, where it applies. -/
def State.stuckDrop (s : State) : State :=
  if s.down.state = .stuck then s.stuckDrops s.relay.length else s

/-! ### The DOWN transmitter (R29, R30) -/

/-- R30: in SENDING, the head entry begins if it belongs to this frame; otherwise the port waits. -/
def State.downNext (s : State) : State :=
  match s.relay with
  | [] => { s with down := { s.down with state := .sending, cur := none } }
  | e :: rest =>
    if e.frame = s.down.frame then
      { s with relay := rest, down := { s.down with state := .sending, cur := some e, since := s.now } }
    else { s with down := { s.down with state := .sending, cur := none } }

/-- The DOWN port waits in SENDING for the next entry of its frame (R30). -/
def DownPort.waits (d : DownPort) : Bool := decide (d.state = .sending) && d.cur.isNone

/-- The queue is full (R26). -/
def State.relayFull (s : State) : Bool := decide (32 ≤ s.relay.length)

/-- An entry joins at the tail; a DOWN port that waits for it begins it at once (R30), and one that is
stuck drops its frame (R32). -/
def State.enqueue (e : RelayEntry) (s : State) : State :=
  let t := { s with relay := s.relay ++ [e] }
  if t.down.waits then t.downNext else t.stuckDrop

/-- R27: the posting of a head-sent byte of a LIVE relay that meets a full queue. -/
def State.overrunPostings (s : State) : List Posting :=
  if s.fc.relay = some .live ∧ s.relayFull then
    [{ code := .relayOverrun, subject := .port .down, detail := addrDetail s.fc.addr }]
  else []

/-- R23, R26, R27: a head-sent byte of the frame in flight joins the queue, if its relay is LIVE; with a
full queue that relay is abandoned. The posting of R27 is left to do. -/
def State.joined (value : Byte) (marker : Marker) (s : State) : State :=
  if s.fc.relay = some .live then
    if s.relayFull then s.abandon s.fc.id
    else s.enqueue { value := value, marker := marker, frame := s.fc.id }
  else s

/-- R23, R26, R27: a head-sent byte of the frame in flight, with the posting of an overrun. -/
def State.joinDown (value : Byte) (marker : Marker) (s : State) : State :=
  (s.joined value marker).postAll s.overrunPostings

/-! ### Bytes on UP (R33, R35) -/

/-- A byte's start bit begins on UP, at the frame's measured Tbit. -/
def State.sendUp (value : Byte) (marker : Marker) (s : State) : State :=
  { s with up := { s.up with
      tx := some { value := value, marker := marker, since := s.now, span := s.fc.pace } } }

/-- R35: the UP port begins the response byte at the queue head, if there is one. -/
def State.relayNext (s : State) : State :=
  match s.relay with
  | [] => { s with up := { s.up with tx := none } }
  | e :: rest => { s with relay := rest }.sendUp e.value e.marker

/-- R35: a response byte joins the queue, and begins at once if the UP port is not sending. -/
def State.joinUp (value : Byte) (marker : Marker) (s : State) : State :=
  if s.relayFull then s
  else
    let t := { s with relay := s.relay ++ [(⟨value, marker, s.fc.id⟩ : RelayEntry)] }
    if t.up.tx.isNone then t.relayNext else t

/-- R35: the downstream response ends early. With an empty queue the UP frame ends at once; otherwise
its entries are still sent (log 24). -/
def State.endResponse (s : State) : State :=
  let t := { s with fc := { s.fc with relayEnded := true }, down := { s.down with state := .idle } }
  if s.fc.state = .relayResponse ∧ s.relay = [] then t.finish .relayFailed else t

/-! ### Ends of a frame on UP -/

/-- R24: the counter of a line error's class. -/
def LineError.count : LineError → UpCounts → UpCounts
  | .rate, c => { c with rate := satInc c.rate }
  | .format, c => { c with format := satInc c.format }
  | .framing, c => { c with framing := satInc c.framing }
  | .gap, c => { c with gap := satInc c.gap }
  | .length, c => { c with length := satInc c.length }
  | .check, c => { c with check := satInc c.check }

/-- R15: a line error's class as the frame's outcome. -/
def LineError.outcome : LineError → FrameOutcome
  | .rate => .rate
  | .format => .format
  | .framing => .framing
  | .gap => .gap
  | .length => .length
  | .check => .check

/-- R24 and R25: if relay is LIVE, the frame's DOWN relay is abandoned. -/
def State.abandonLive (s : State) : State :=
  if s.fc.relay = some .live then s.abandon s.fc.id else s

/-- R24: a line error ends the frame. -/
def State.lineError (e : LineError) (s : State) : State :=
  (((s.finish e.outcome).countUp e.count).abandonLive)

/-! ### Soft reset of the ports (R41) -/

/-- R41: the DOWN port at a soft reset; `carrier` is the frame that carried the command, if the bridge
holds one. -/
def DownPort.softReset (carrier : Option Nat) (d : DownPort) : DownPort :=
  { (if carrier = some d.frame then d else d.giveUp) with counts := .zero }

/-- R41: the relay queue keeps the entries of the carrying frame only. -/
def keepCarrier (carrier : Option Nat) (q : List RelayEntry) : List RelayEntry :=
  q.filter fun e => carrier == some e.frame

end Sys2Proof.Machine
end

