-- ==== Sys2Proof/Machine/Bytes.lean ====
section
/-!
DEFINITION. The byte under way on UP: its start edge, its falling edges, its cells at the start and the stop,
and the windows it has to meet (R5 to R7, R13, R14). A sender that shows a falling edge of a byte by
UP_LOW_SEEN shows its start edge first, and each later one (log 17).
-/

namespace Sys2Proof.Machine

/-! ### Windows (R13, R14) -/

/-- A limit of so many parts of a twelfth of a microsecond has passed. A row's moment is a whole twelfth: one
that a rule puts between two of them is the later of the two (log 29). -/
def limitPassed (parts limit elapsed : Time) : Bool := decide (limit + parts ≤ parts * elapsed)

/-- A LISTEN frame that has not yet received a response byte. -/
def FrameContext.awaitsResponse (fc : FrameContext) : Bool :=
  decide (fc.answer = some .listen) && fc.data.isEmpty

/-- R13, R14: twice the running window on UP, from the break's rising edge or from the last stop-cell centre
on, which lies half a Tbit before its byte's end. -/
def State.window2 (s : State) : Time :=
  match s.fc.state with
  | .rate => 6 * s.nominal
  | _ => if s.fc.awaitsResponse then 3 * s.fc.pace else s.fc.pace

/-- R13, R14: a start edge at that moment is in time. -/
def State.edgeInTime (edge : Time) (s : State) : Bool := decide (2 * (edge - s.fc.ref) ≤ s.window2)

/-- R13, R14: the latest a byte can complete, 3 Tbit (10 for the first response byte) after the end of
the byte before it, has passed. `ref` is that byte's stop-cell centre, half a Tbit before its end. -/
def State.byteLate (s : State) : Bool :=
  let limit := if s.fc.awaitsResponse then 20 else 13
  limitPassed 7 (limit * s.fc.pace) (s.now - s.fc.ref)

/-! ### The span of the rate byte (R6, R7) -/

/-- R7: 6.16 nominal Tbit and 7.84 nominal Tbit, against a span. -/
def spanEarly (nominal span : Time) : Bool := decide (100 * span < 616 * nominal)

/-- R7: the span passes 7.84 nominal Tbit. -/
def spanLate (nominal span : Time) : Bool := decide (784 * nominal < 100 * span)

/-- R6: the span from the opening edge to the fourth falling edge, once that has come. -/
def StartEdge.span (b : StartEdge) : Option Time := b.falls[2]?.map fun fourth => fourth - b.edge

/-! ### The start cell (R5) -/

/-- The low being timed on UP. -/
def State.upLow (s : State) : Option LowTimer :=
  match s.up.rx with
  | .lowSeen low => some low
  | .idle => none
  | .stuck => none

/-- Seven Tbit by which a start cell is read: nominal ones before the rate byte is known (R5, R7). -/
def State.cellPace (s : State) : Time :=
  match s.fc.state with
  | .rate => 7 * s.nominal
  | _ => s.fc.pace

/-- R5: the start edge of the byte under way, as this moment finds it. At its centre, half a Tbit after the
edge, the start cell is read: low, if a low that began by then is still being timed; otherwise it was no
start edge. -/
def State.startNow (s : State) : Option StartEdge :=
  match s.up.start with
  | none => none
  | some b =>
    if b.read || decide (14 * (s.now - b.edge) < s.cellPace) then some b
    else if s.upLow.any fun low => decide (14 * (low.since - b.edge) ≤ s.cellPace) then
      some { b with read := true }
    else none

/-! ### The stop cell (R5, R7) -/

/-- Seven Tbit of the byte under way. Those of a rate byte are known from its fourth falling edge on. -/
def State.sevenTbit (b : StartEdge) (s : State) : Option Time :=
  match s.fc.state with
  | .rate => b.span
  | _ => some s.fc.pace

/-- R7, step 1: the rate byte has not failed the rate step. -/
def State.rateHolds (b : StartEdge) (s : State) : Bool :=
  match s.fc.state with
  | .rate => match b.span with
    | some span => !spanEarly s.nominal span && !spanLate s.nominal span
    | none => decide (100 * (s.now - b.edge) ≤ 784 * s.nominal)
  | _ => true

/-- R5, R7, R13, R14: the byte is still being read: its start edge came in time, its rate holds, and its
stop-cell centre, 9.5 Tbit after that edge, has not passed. -/
def State.byteGoesOn (b : StartEdge) (s : State) : Bool :=
  s.edgeInTime b.edge && s.rateHolds b
    && (s.sevenTbit b).all fun seven => decide (14 * (s.now - b.edge) ≤ 19 * seven)

/-- R5: a low that has lasted since then covers the byte's stop-cell centre. -/
def State.stopCovered (b : StartEdge) (since : Time) (s : State) : Bool :=
  (s.sevenTbit b).any fun seven =>
    decide (14 * (since - b.edge) ≤ 19 * seven) && decide (19 * seven ≤ 14 * (s.now - b.edge))

/-- A byte whose start edge a row has shown cannot complete now: that edge came late, its stop-cell centre is
ahead, or a low covers it (R5, R13, R14). -/
def State.byteRefusal (seven : Time) (s : State) : Option Refusal :=
  match s.startNow with
  | none => none
  | some b =>
    if !s.edgeInTime b.edge then some .overdue
    else if 14 * (s.now - b.edge) < 19 * seven then some .notDue
    else if s.upLow.any fun low => decide (14 * (low.since - b.edge) ≤ 19 * seven) then some .outOfPlace
    else none

end Sys2Proof.Machine
end

