-- ==== Sys2Proof/Machine/Drive.lean ====
section
/-!
DEFINITION. Drive channels (chapter 5): shots, triggers, leader ends, the effects of a cycle start on a
channel, and the configuration of a channel.
-/

namespace Sys2Proof.Machine

/-! ### Outputs -/

/-- Is the shot ACTIVE? -/
def Shot.isActive : Shot → Bool
  | .active _ _ _ => true
  | _ => false

/-- R93-R98: the output as the channel's mode gives it. -/
def Channel.modeOutput (c : Channel) : Bool :=
  match c.config.mode with
  | .off => false
  | .level => c.latch
  | .width => c.phase
  | .oneshot => c.shot.isActive
  | .follow => c.shot.isActive

/-! ### Shots and triggers -/

/-- R98: the shot state that a start gives, with the delay and width of the active record. -/
def Shot.start (a : Active) (now : Time) : Shot :=
  if a.delay ≠ 0 then .waiting a.delay a.setpoint now
  else if a.setpoint ≠ 0 then .active a.delay a.setpoint now
  else .idle

/-- R98, R99, R102: a shot starts or restarts; the Bool says whether that ended an active output. -/
def Channel.startShot (now : Time) (c : Channel) : Channel × Bool :=
  ({ c with shot := Shot.start c.active now }, c.shot.isActive && !(Shot.start c.active now).isActive)

/-- R97, R101: triggers and leader ends are taken in a group that is not STOPPED, with no override. -/
def Channel.takes (groups : Vector GroupRec 4) (c : Channel) : Bool :=
  decide (groups[c.config.group].state ≠ .stopped) && decide (c.override = .none)

/-- R97 and R99: a trigger that is taken. -/
def Channel.trigger (now : Time) (c : Channel) : Channel × Bool :=
  if c.shot = .idle ∨ c.config.retrigger = some .restart then c.startShot now
  else ({ c with ignored := satInc c.ignored }, false)

/-- R97: a ONESHOT channel takes a trigger of one source; any other channel, or one that drops the
trigger, is left as it was. -/
def Channel.oneshotOn (src : ChanTrigger) (groups : Vector GroupRec 4) (now : Time) (c : Channel) :
    Channel × Bool :=
  if c.config.mode = .oneshot ∧ c.config.trigger = some src ∧ c.takes groups then c.trigger now
  else (c, false)

/-- R101: does the channel follow one of the channels whose leader end has come? -/
def Channel.follows (ended : List Chan) (c : Channel) : Bool :=
  decide (c.config.mode = .follow) && match c.config.leader with
    | some l => ended.contains l
    | none => false

/-- One channel of a sweep: its own effect, then a leader end that reaches it (R101, R102). -/
def sweepStep (now : Time) (groups : Vector GroupRec 4) (own : Chan → Channel → Channel × Bool)
    (acc : Vector Channel 6 × List Chan) (d : Chan) : Vector Channel 6 × List Chan :=
  let (c, ends) := own d acc.1[d]
  let (c', ends') := if c.follows acc.2 && c.takes groups then c.startShot now else (c, false)
  (acc.1.set d c', if ends || ends' then d :: acc.2 else acc.2)

/-- Applies an effect to the channels from D0 to D5 and delivers every leader end it makes. A follower
that takes a leader end has a lower-numbered leader (R88), so one rising pass delivers them all; in a
state that no run reaches, an end whose follower has a lower number is not delivered (log 23). -/
def sweep (now : Time) (groups : Vector GroupRec 4) (own : Chan → Channel → Channel × Bool)
    (v : Vector Channel 6) : Vector Channel 6 :=
  (allChans.foldl (sweepStep now groups own) (v, [])).1

/-- A sweep over the state's channels. -/
def State.drive (own : Chan → Channel → Channel × Bool) (s : State) : State :=
  { s with chans := sweep s.now s.groups own s.chans }

/-- An effect on one channel only. -/
def onlyOn (d : Chan) (f : Channel → Channel × Bool) (e : Chan) (c : Channel) : Channel × Bool :=
  if e = d then f c else (c, false)

/-- R67: the COMMIT triggers of an accepted commit of a group. -/
def State.triggerCommit (g : Group) (s : State) : State :=
  s.drive fun _ c => if c.config.group = g then c.oneshotOn .commit s.groups s.now else (c, false)

/-- R127: the CAPTURE k triggers of a capture event. -/
def State.triggerCapture (k : CapIn) (s : State) : State :=
  s.drive fun _ c => c.oneshotOn (.capture k) s.groups s.now

/-! ### Effects of a cycle start (R94, R96, R97) -/

/-- R101: a fall of the output from `was` to `is` at a cycle start is a leader end if no override hides it,
neither just before the cycle start (`live`) nor now. -/
def Channel.endsAtStart (c live : Channel) (was is : Bool) : Bool :=
  was && !is && decide (live.override = .none) && decide (c.override = .none)

/-- R94: the latch takes the setpoint of the active record as R69's copy left it (R82). -/
def Channel.levelAtStart (c live : Channel) : Channel × Bool :=
  let latch := decide (live.active.setpoint ≠ 0)
  ({ c with latch := latch }, c.endsAtStart live c.latch latch)

/-- R96: the WIDTH output is settled for count 0, by the active record as R69's copy left it (R82). An entry
into FALLBACK at this cycle start that has set the record's setpoint to 0 leaves no phase (R95, R112). -/
def Channel.widthAtStart (c live : Channel) : Channel × Bool :=
  let phase := decide (live.active.delay = 0) && decide (live.active.setpoint ≠ 0)
    && decide (c.active.setpoint ≠ 0)
  ({ c with phase := phase }, c.endsAtStart live c.phase phase)

/-- The effect of a cycle start on one channel, by its mode; none in a STOPPED group. `live` is the channel
as R69's copy left it. -/
def Channel.atCycleStart (c live : Channel) (groups : Vector GroupRec 4) (now : Time) : Channel × Bool :=
  if groups[c.config.group].state = .stopped then (c, false)
  else match c.config.mode with
    | .level => c.levelAtStart live
    | .width => c.widthAtStart live
    | .oneshot => c.oneshotOn .cycle groups now
    | .off => (c, false)
    | .follow => (c, false)

/-- R82: the drive channels take a cycle start; `live` are the channels as R69's copy left them. -/
def State.driveCycleStart (live : Vector Channel 6) (s : State) : State :=
  s.drive fun d c => c.atCycleStart live[d] s.groups s.now

/-! ### Ends of phases and shots -/

/-- R96: a WIDTH phase ends; a leader end if there is no override. -/
def Channel.endPhase (c : Channel) : Channel × Bool :=
  ({ c with phase := false }, decide (c.override = .none))

/-- R98: a shot's active phase ends; a leader end if there is no override. -/
def Channel.endShot (c : Channel) : Channel × Bool :=
  ({ c with shot := .idle }, decide (c.override = .none))

/-! ### Records, overrides, stops -/

/-- R60: emptying a stage slot leaves its overwrite count. -/
def Stage.emptied (st : Stage) : Stage := { st with setpoint := none, delay := none, source := none }

/-- R60: an empty armed record. -/
def Armed.empty : Armed := { setpoint := none, delay := none }

/-- Is the armed record empty? -/
def Armed.isEmpty (a : Armed) : Bool := a.setpoint.isNone && a.delay.isNone

/-- Is the stage slot empty? -/
def Stage.isEmpty (st : Stage) : Bool := st.setpoint.isNone && st.delay.isNone

/-- R68: the channel's stage slot and armed record are emptied. -/
def Channel.emptied (c : Channel) : Channel := { c with stage := c.stage.emptied, armed := .empty }

/-- R90: the override of a fallback action. -/
def Action.override : Action → Override
  | .idle => .idle
  | .active => .active
  | .hold => .none

/-- R111 and R112: the channel's records are emptied and its fallback action is applied. A record whose
setpoint is 0 has an empty WIDTH phase (R95, log 28). -/
def Channel.enterFallback (c : Channel) : Channel :=
  match c.config.action with
  | .idle =>
    { c.emptied with
      active := { c.active with setpoint := 0 }, override := .idle, shot := .idle, phase := false }
  | .active => { c.emptied with override := .active, shot := .idle }
  | .hold => { c.emptied with override := .none }

/-- R91 and R106: what GROUP_STOP does to a channel of the group. -/
def Channel.stopped (c : Channel) : Channel :=
  { c.emptied with
    active := { setpoint := 0, delay := 0 }, shot := .idle, override := .none, latch := false,
    phase := false }

/-- R91: a channel of a group that is started. -/
def Channel.started (c : Channel) : Channel :=
  { c with shot := .idle, override := .none, latch := false, phase := false }

/-- R92: with RESET low a channel keeps no running state. -/
def Channel.heldInReset (c : Channel) : Channel := { c.started with ignored := 0 }

/-- Applies a function to the channels of one group. -/
def State.mapGroupChans (g : Group) (f : Channel → Channel) (s : State) : State :=
  { s with chans := mapChans (fun c => if c.config.group = g then f c else c) s.chans }

/-! ### The leader test (R88) -/

/-- Why a leader test fails (R88). -/
inductive LeaderFault where
  | order
  | mode
  deriving DecidableEq, Repr

/-- R88: modes that may lead. -/
def ChanMode.mayLead : ChanMode → Bool
  | .width => true
  | .oneshot => true
  | .follow => true
  | .off => false
  | .level => false

/-- R88: the leader test of channel f with a leader; none if it passes. -/
def leaderTest (chans : Vector Channel 6) (f : Chan) (leader : Option Chan) : Option LeaderFault :=
  match leader with
  | none => some .order
  | some l =>
    if f ≤ l then some .order
    else if chans[l].config.mode.mayLead then none
    else some .mode

/-- R86: the lowest-numbered FOLLOW channel, in a group that is not STOPPED, that names d as leader. -/
def followerOf (chans : Vector Channel 6) (groups : Vector GroupRec 4) (d : Chan) : Option Chan :=
  allChans.find? fun f =>
    decide (chans[f].config.mode = .follow) && decide (chans[f].config.leader = some d)
      && decide (groups[chans[f].config.group].state ≠ .stopped)

/-- R87: an accepted configuration, with the override that the new group's state gives. -/
def Channel.configured (config : ChanConfig) (newState : GroupState) (c : Channel) : Channel :=
  { c with
    config := config, latch := false, phase := false,
    override := match newState with
      | .fallback => config.action.override
      | .resuming => config.action.override
      | .stopped => .none
      | .run => .none }

end Sys2Proof.Machine
end

