-- ==== Sys2Proof/Machine/Groups.lean ====
section
/-!
DEFINITION. The group supervisor (chapter 6): causes, entry into FALLBACK, the hold check, the end of
fallback, and what the group commands do to one group.
-/

namespace Sys2Proof.Machine

/-- The posting of a cause (R110, R111, R117). -/
def fallbackPosting (g : Group) (cause : Cause) (further : Bool) : Posting :=
  { code := .fallback, subject := .group g, detail := .cause cause further }

/-- The posting of a start or of an end of fallback (R105, R115, R117). -/
def groupRunPosting (g : Group) (detail : Detail) : Posting :=
  { code := .groupRun, subject := .group g, detail := detail }

/-- R111, steps 1 to 3: the group enters FALLBACK and its channels apply their actions. -/
def State.enterFallback (g : Group) (cause : Cause) (s : State) : State :=
  (s.setGroup g { s.groups[g] with state := .fallback, endPending := false, hold := 0, reason := some cause
    }).mapGroupChans g Channel.enterFallback

/-- R109 to R111: a group takes a cause; with what is to be posted for it. -/
def State.takeCause (g : Group) (cause : Cause) (s : State) : State × List Posting :=
  match s.groupState g with
  | .stopped => (s, [])
  | .fallback => (s, [fallbackPosting g cause true])
  | .run => (s.enterFallback g cause, [fallbackPosting g cause false])
  | .resuming => (s.enterFallback g cause, [fallbackPosting g cause false])

/-- The groups for which a test holds take a cause, in the order G0 to G3 (R117). -/
def State.takeCauses (p : Group → Bool) (cause : Cause) (s : State) : State × List Posting :=
  allGroups.foldl
    (fun acc g =>
      if p g then ((acc.1.takeCause g cause).1, acc.2 ++ (acc.1.takeCause g cause).2) else acc)
    (s, [])

/-- R108: the hold check of a RUN group at a cycle start. -/
def State.holdCheck (g : Group) (s : State) : State × List Posting :=
  let r := s.groups[g]
  if r.state ≠ .run then (s, [])
  else if r.holdLimit ≠ 0 ∧ r.hold = r.holdLimit then
    (s.enterFallback g .hold, [fallbackPosting g .hold false])
  else (s.setGroup g { r with hold := satInc r.hold }, [])

/-- R115: at the first cycle start after a recovery commit, fallback ends. -/
def State.endFallback (g : Group) (s : State) : State × List Posting :=
  let r := s.groups[g]
  if r.state = .run ∧ r.endPending then
    ((s.setGroup g { r with endPending := false, reason := none }).mapGroupChans g
      fun c => { c with override := .none },
     [groupRunPosting g .recovered])
  else (s, [])

/-- R105, step 3: the group is started. -/
def State.startGroup (g : Group) (s : State) : State :=
  ((s.setGroup g { s.groups[g] with state := .run, hold := 0, reason := none, endPending := false
    }).mapGroupChans g Channel.started).post (groupRunPosting g .started)

/-- R106: the group is stopped. -/
def State.stopGroup (g : Group) (s : State) : State :=
  (s.setGroup g { s.groups[g] with state := .stopped, hold := 0, reason := none, endPending := false
    }).mapGroupChans g Channel.stopped

/-- R113: the group is resumed. -/
def State.resumeGroup (g : Group) (s : State) : State :=
  s.setGroup g { s.groups[g] with state := .resuming, hold := 0 }

/-- R105, step 2: the first FOLLOW channel of the group, from D0 to D5, that fails the leader test. -/
def groupLeaderFault (chans : Vector Channel 6) (g : Group) : Option (Chan × LeaderFault) :=
  allChans.findSome? fun f =>
    if chans[f].config.group = g ∧ chans[f].config.mode = .follow then
      (leaderTest chans f chans[f].config.leader).map fun why => (f, why)
    else none

end Sys2Proof.Machine
end

