-- ==== Sys2Proof/Machine/Apply.lean ====
section
/-!
DEFINITION. The apply engine (chapter 4): staging an accepted PUT, commits, and the copy that a cycle
start makes.
-/

namespace Sys2Proof.Machine

/-! ### Staging (R62 to R65) -/

/-- A value read from a PUT's data, with where it goes. -/
structure Destined where
  chan : Chan
  param : Param
  value : Nat
  deriving DecidableEq, Repr

/-- R62: the value a descriptor yields. -/
def Descriptor.read (data : List Byte) (d : Descriptor) : Destined :=
  let first := data.getD d.offset.val 0
  { chan := d.chan, param := d.param,
    value := match d.size with
      | .one => first.toNat
      | .two => wordOf first (data.getD (d.offset.val + 1) 0) }

/-- R62: of the values for one channel and parameter, the last in list order is kept. -/
def keepLast : List Destined → List Destined
  | [] => []
  | v :: vs =>
    if vs.any fun w => w.chan == v.chan && w.param == v.param then keepLast vs else v :: keepLast vs

/-- R62: the destined values of a PUT. -/
def destined (data : List Byte) (unpack : List Descriptor) : List Destined :=
  keepLast (unpack.map (Descriptor.read data))

/-- R63: a group whose values are discarded. -/
def GroupState.discards : GroupState → Bool
  | .stopped => true
  | .fallback => true
  | .run => false
  | .resuming => false

/-- R64: a value above 4095 is replaced by 4095. -/
def clampTo12 (v : Nat) : Value12 := BitVec.ofNat 12 (min v 4095)

/-- R65: a value merges into one field of a stage slot; a present field counts an overwrite. -/
def Stage.merge (tag : Tag) (param : Param) (v : Value12) (st : Stage) : Stage :=
  match param with
  | .setpoint =>
    { st with setpoint := some v, source := some tag,
              overwrite := if st.setpoint.isSome then satInc st.overwrite else st.overwrite }
  | .delay =>
    { st with delay := some v, source := some tag,
              overwrite := if st.delay.isSome then satInc st.overwrite else st.overwrite }

/-- R64 and R65: a value that passes the group test is clamped and merged. -/
def Channel.stageValue (tag : Tag) (v : Destined) (c : Channel) : Channel :=
  { c with stage := c.stage.merge tag v.param (clampTo12 v.value),
           clamp := if 4095 < v.value then satInc c.clamp else c.clamp }

/-- R63: one destined value is discarded or staged. -/
def State.stageOne (tag : Tag) (s : State) (v : Destined) : State :=
  let c := s.chans[v.chan]
  if (s.groupState c.config.group).discards then s else s.setChan v.chan (c.stageValue tag v)

/-- R63: does the frame discard a value for this group? -/
def discardsFor (s : State) (vs : List Destined) (g : Group) : Bool :=
  (s.groupState g).discards && vs.any fun v => s.chans[v.chan].config.group == g

/-- R63: a group's discard count counts the frame once. -/
def State.countDiscards (vs : List Destined) (s : State) : State :=
  allGroups.foldl
    (fun t g =>
      if discardsFor s vs g then t.setGroup g { t.groups[g] with discard := satInc t.groups[g].discard }
      else t) s

/-- R62 to R65: an accepted PUT is staged. -/
def State.stagePut (tag : Tag) (data : List Byte) (unpack : List Descriptor) (s : State) : State :=
  let vs := destined data unpack
  vs.foldl (fun t v => t.stageOne tag v) (s.countDiscards vs)

/-! ### Commits (R66, R67, R114) -/

/-- The bit of a commit source in a source set (R191). -/
def Source.bit : Source → Nat
  | .mark => 0
  | .self => 1
  | .mgmt => 2
  | .auto => 3

/-- R66: a group that accepts commits. -/
def GroupState.commits (st : GroupState) : Bool := !st.discards

/-- R66: the commit test. -/
def GroupRec.accepts (src : Source) (r : GroupRec) : Bool :=
  r.sources.getLsbD src.bit && r.state.commits

/-- R67: staged fields replace armed fields and the stage slot is emptied. -/
def Channel.commit (c : Channel) : Channel :=
  if c.stage.isEmpty then c
  else { c with
    armed := { setpoint := c.stage.setpoint.or c.armed.setpoint, delay := c.stage.delay.or c.armed.delay },
    stage := c.stage.emptied }

/-- R114: a recovery commit arms 0 and 0 where nothing was staged and nothing is armed. -/
def Channel.recover (c : Channel) : Channel :=
  if c.stage.isEmpty && c.armed.isEmpty then { c with armed := { setpoint := some 0, delay := some 0 } }
  else c

/-- R67: every commit but an AUTO one sets the hold count to 0. -/
def GroupRec.committed (src : Source) (r : GroupRec) : GroupRec :=
  if src = .auto then r else { r with hold := 0 }

/-- R67 and R114: an accepted commit of a group. The channels whose stage slot and armed record are
both empty before the commit are those that R114 fills: a commit leaves them as they are, and it
leaves every other channel of the group with an armed field. -/
def State.acceptCommit (src : Source) (g : Group) (s : State) : State :=
  let recovering := decide (s.groupState g = .resuming) && decide (src ≠ .auto)
  let moved := (s.mapGroupChans g fun c =>
    if recovering then c.recover.commit else c.commit).setGroup g (s.groups[g].committed src)
  let triggered := moved.triggerCommit g
  if recovering then
    triggered.setGroup g { triggered.groups[g] with state := .run, hold := 0, endPending := true }
  else triggered

/-- R66: a commit request; an ignored one changes nothing. -/
def State.requestCommit (src : Source) (g : Group) (s : State) : State :=
  if s.groups[g].accepts src then s.acceptCommit src g else s

/-- Commit requests for the groups for which a test holds, in the order G0 to G3. -/
def State.requestCommits (src : Source) (p : Group → Bool) (s : State) : State :=
  allGroups.foldl (fun t g => if p g then t.requestCommit src g else t) s

/-- R65: the groups concerned by a SELF commit: those that own a channel of the list, or all four for
an empty list. -/
def selfGroups (s : State) (unpack : List Descriptor) (g : Group) : Bool :=
  unpack.isEmpty || unpack.any fun d => s.chans[d.chan].config.group == g

/-- R48 and R65: an accepted PUT is staged, and then its SELF commits are requested. -/
def State.applyPut (tag : Tag) (data : List Byte) (copy : EntryCopy) (s : State) : State :=
  let staged := s.stagePut tag data copy.unpack
  if copy.entry.commitAfter then staged.requestCommits .self (selfGroups staged copy.unpack) else staged

/-! ### The copy at a cycle start (R69) -/

/-- R69: armed fields are copied into the active record and the armed record is emptied. -/
def Channel.copyArmed (c : Channel) : Channel :=
  { c with
    active := { setpoint := c.armed.setpoint.getD c.active.setpoint,
                delay := c.armed.delay.getD c.active.delay },
    armed := .empty }

/-- R69: the copy is made for the channels of every RUN and RESUMING group. -/
def State.copyArmed (s : State) : State :=
  let copy (c : Channel) : Channel :=
    if (s.groupState c.config.group).commits then c.copyArmed else c
  { s with chans := mapChans copy s.chans }

end Sys2Proof.Machine
end

