-- ==== Sys2Proof/Machine/Sampler.lean ====
section
/-!
DEFINITION. The sampler (chapter 8): triggers, scan steps, the limit check, abandoning.
-/

namespace Sys2Proof.Machine

/-- 8.1: the idle scan state of a mode. -/
def SamplerMode.idleScan : SamplerMode → Scan
  | .off => .off
  | .immediate => .ready
  | .settled => .asleep

/-- R135: a trigger, by the scan state it finds. -/
def Sampler.trigger (now : Time) (sm : Sampler) : Sampler :=
  match sm.scan with
  | .off => sm
  | .ready => { sm with scan := .converting 0 now }
  | .asleep => { sm with scan := .settling now }
  | .settling _ => { sm with overrun := satInc sm.overrun }
  | .converting _ _ => { sm with overrun := satInc sm.overrun }

/-- R134: an event of a source is a trigger if the trigger source names it. -/
def State.samplerEvent (src : SamplerSource) (s : State) : State :=
  if s.sampler.source = some src then { s with sampler := s.sampler.trigger s.now } else s

/-- R141: the scan in progress is abandoned; the sampler is idle in its mode. -/
def Sampler.abandon (sm : Sampler) : Sampler := { sm with scan := sm.mode.idleScan }

/-- R133: a conversion's result replaces value, status and sequence together. -/
def Analog.store (v : BitVec 10) (a : Analog) : Analog :=
  { a with value := v, valid := true, seq := a.seq + 1 }

/-- R139: the side on which a value lies outside the window, if it does. -/
def Analog.outsideSide (v : BitVec 10) (a : Analog) : Option Detail :=
  if v < a.low then some .limitLow else if a.high < v then some .limitHigh else none

/-- R139 and R140: the limit check of a new value, and the breach it may report. -/
def State.limitCheck (a : AnIn) (v : BitVec 10) (s : State) : State :=
  let r := s.sampler.inputs[a]
  let flagged (b : Bool) : State :=
    { s with sampler := { s.sampler with inputs := s.sampler.inputs.set a { r with outside := b } } }
  match r.outsideSide v with
  | some side =>
    if r.outside then s
    else
      let breach := (flagged true).takeCauses (GroupSet.has r.trip) .limit
      breach.1.postBoth [{ code := .limit, subject := .analog a, detail := side }] breach.2
  | none => flagged false

/-- R137: what follows the conversion of the entry at a scan position. -/
def Sampler.nextStep (pos : Fin 4) (now : Time) (sm : Sampler) : Scan :=
  if h : pos.val + 1 < 4 then
    if pos.val + 1 < sm.list.length then .converting ⟨pos.val + 1, h⟩ now else sm.mode.idleScan
  else sm.mode.idleScan

/-- R137: the conversion of input a, at a scan position, ends with a value. -/
def State.convert (pos : Fin 4) (a : AnIn) (v : BitVec 10) (s : State) : State :=
  let sm := s.sampler
  { s with sampler := { sm with
      inputs := sm.inputs.set a (sm.inputs[a].store v), scan := sm.nextStep pos s.now } }.limitCheck a v

/-- R136: the times of a scan. -/
def settlingTime : Time := micros 50

/-- R136: the time of a conversion. -/
def conversionTime : Time := micros 14

end Sys2Proof.Machine
end

