-- ==== Sys2Proof/Machine/Capture.lean ====
section
/-!
DEFINITION. Capture inputs (chapter 7): seen edges, measurements, results, and capture events.
-/

namespace Sys2Proof.Machine

/-- R121: the elapsed count, whole tick lengths since the opening edge, which stops at 65535. -/
def elapsed (tick : Tick) (opened now : Time) : BitVec 16 :=
  BitVec.ofNat 16 (min ((now - opened) / tick.length) 65535)

/-- R119: a new result replaces value and status and advances the sequence. -/
def Capture.store (v : BitVec 16) (status : CaptureStatus) (c : Capture) : Capture :=
  { c with value := v, status := status, seq := c.seq + 1 }

/-- R122: PERIOD mode sees its active edge. -/
def Capture.periodEdge (tick : Tick) (now : Time) (c : Capture) : Capture × Bool :=
  match c.measure with
  | .unarmed => ({ c with measure := .armed now }, false)
  | .armed opened => ({ c.store (elapsed tick opened now) .valid with measure := .armed now }, true)
  | _ => (c, false)

/-- R123: HIGH and LOW mode see an edge that opens (`opens`) or closes a measurement. -/
def Capture.levelEdge (opens : Bool) (tick : Tick) (now : Time) (c : Capture) : Capture × Bool :=
  match c.measure, opens with
  | .waiting, true => ({ c with measure := .timing now }, false)
  | .timing opened, false => ({ c.store (elapsed tick opened now) .valid with measure := .waiting }, true)
  | _, _ => (c, false)

/-- R122, R123, R125: an input sees an edge; the Bool says whether it is a capture event (R127). -/
def Capture.see (e : Edge) (tick : Tick) (now : Time) (c : Capture) : Capture × Bool :=
  match c.mode with
  | .off => (c, false)
  | .period => if c.edge = some e then c.periodEdge tick now else (c, false)
  | .high => c.levelEdge (decide (e = .rising)) tick now
  | .low => c.levelEdge (decide (e = .falling)) tick now
  | .count => if e = .rising then ({ c with running := satInc c.running }, true) else (c, false)

/-- The edge that leads to a level (R120). -/
def edgeTo : Level → Edge
  | .high => .rising
  | .low => .falling

/-- R127: a capture event reaches the drive channels and the sampler. -/
def State.captureEvent (k : CapIn) (s : State) : State :=
  (s.triggerCapture k).samplerEvent (.capture k)

/-- R120: input k's filtered level takes a level, and the edge is seen. -/
def State.seeEdge (k : CapIn) (l : Level) (s : State) : State :=
  let c : Capture := { s.caps[k] with filtered := some l, change := none }
  let (c', event) := c.see (edgeTo l) s.cycle.tick s.now
  let t := s.setCap k c'
  if event then t.captureEvent k else t

/-- R125: at a cycle start an input in COUNT mode stores its running count. -/
def Capture.atCycleStart (c : Capture) : Capture :=
  match c.mode with
  | .count =>
    { c.store c.running (if c.running = BitVec.allOnes 16 then .overflow else .valid) with running := 0 }
  | _ => c

/-- The state of an input that has no measurement in progress (7.4). -/
def CaptureMode.restMeasure : CaptureMode → Measure
  | .off => .off
  | .period => .unarmed
  | .high => .waiting
  | .low => .waiting
  | .count => .counting

/-- The opening moment of a timed measurement in progress. -/
def Measure.opened : Measure → Option Time
  | .armed opened => some opened
  | .timing opened => some opened
  | _ => none

/-- R124: the overflow of a timed measurement. -/
def Capture.overflow (c : Capture) : Capture :=
  { c.store (BitVec.allOnes 16) .overflow with measure := c.mode.restMeasure }

/-- R121: CONFIG_CYCLE abandons a timed measurement and times a pending change again from now. -/
def Capture.retick (now : Time) (c : Capture) : Capture :=
  { c with measure := if c.measure.opened.isSome then c.mode.restMeasure else c.measure,
           change := c.change.map fun p => { p with since := now } }

/-- R128: an accepted CONFIG_CAPTURE, at this moment. -/
def Capture.configured (now : Time) (mode : CaptureMode) (edge : Option Edge) (filter : Filter)
    (c : Capture) : Capture :=
  { pin := c.pin, mode := mode, edge := if mode = .period then edge else none, filter := filter,
    filtered := if mode = .off then none else some c.pin, change := none, measure := mode.restMeasure,
    running := 0, value := 0, status := .empty, seq := 0, configuredAt := some now }

/-- R120: has a pending change held for the filter width? -/
def Capture.held (tick : Tick) (now : Time) (c : Capture) (p : PendingChange) : Bool :=
  decide (c.filter.width * tick.length ≤ now - p.since)

/-- R130: the progress shown by READ_CAPTURE. -/
def Capture.progress (tick : Tick) (now : Time) (c : Capture) : BitVec 16 :=
  match c.measure with
  | .armed opened => elapsed tick opened now
  | .timing opened => elapsed tick opened now
  | .counting => c.running
  | _ => 0

end Sys2Proof.Machine
end

