-- ==== Sys2Proof/Machine/Cycle.lean ====
section
/-!
DEFINITION. The cycle start and everything it reaches (R69, R70, R82, R94, R96, R108, R115, R125), the
restarts of the counter (R83, R84), and the handling of an accepted MARK (R72, R73).
-/

namespace Sys2Proof.Machine

/-- What one cycle start has done so far: the state, the GROUP_RUN postings and the FALLBACK postings. -/
structure Supervised where
  state : State
  runs : List Posting
  falls : List Posting

/-- R115, then R108: the supervisor's work on one group at a cycle start. -/
def Supervised.check (g : Group) (a : Supervised) : Supervised :=
  let ended := a.state.endFallback g
  let checked := ended.1.holdCheck g
  { state := checked.1, runs := a.runs ++ ended.2, falls := a.falls ++ checked.2 }

/-- R70: the AUTO commit request of one group. -/
def Supervised.auto (g : Group) (a : Supervised) : Supervised :=
  { a with state := a.state.requestCommit .auto g }

/-- R70 and R108 for one group, in an order that the manual leaves open (log 9). -/
def Supervised.group (draw : Nat) (a : Supervised) (g : Group) : Supervised :=
  if Config.autoFirst draw g then (a.auto g).check g else (a.check g).auto g

/-- The apply engine's AUTO commits and the group supervisor's work at a cycle start. The manual names no
order between one group's work and another's: the model takes G0 first and G3 last (DESIGN CHOICE, log
9). GROUP_RUN and FALLBACK entries join the event queue in either order (R117), and so do they and
`posts`, the ports' own entries of this moment (R39, log 10). -/
def State.supervise (posts : List Posting) (s : State) : State :=
  let a := allGroups.foldl (Supervised.group s.draws) { state := s, runs := [], falls := [] }
  a.state.drawn.postBoth posts (a.state.eitherOrder a.runs a.falls)

/-- R82: a cycle start, announced to every block that runs on the output cycle. The copy of R69 comes
first, and the channels read their active records as it left them; the order of the channels and the
supervisor is left open (log 9). -/
def State.cycleStart (posts : List Posting) (s : State) : State :=
  let copied := s.copyArmed
  let driven :=
    if Config.channelsFirst s.draws then (copied.driveCycleStart copied.chans).supervise posts
    else (copied.supervise posts).driveCycleStart copied.chans
  { driven with caps := mapCaps Capture.atCycleStart driven.caps }.samplerEvent .cycle

/-- The counter begins a cycle at this moment, with a local cycle number. -/
def State.restartCount (number : Byte) (s : State) : State :=
  { s with cycle := { s.cycle with base := s.now, number := number } }

/-- R83: a mark restart. Some of the ports' entries of this moment join the queue before it, with the old
cycle number, and the others among the entries of the cycle start (R39, R183, log 10). -/
def State.markRestart (number : Byte) (posts : List Posting) (s : State) : State :=
  let before := Config.postedBeforeRestart s.draws
  ((s.postAll (posts.take before)).restartCount number).cycleStart (posts.drop before)

/-- R72: the restart that a mark with cycle sync makes in MARKED mode. -/
def State.markSync (sync : Bool) (number : Byte) (posts : List Posting) (s : State) : State :=
  if sync ∧ s.cycle.mode = .marked then s.markRestart number posts else s.postAll posts

/-- R72 and R73: an accepted MARK. `posts` are the ports' own entries of this moment. -/
def State.handleMark (number : Byte) (mask : GroupSet) (entry : TagEntry) (posts : List Posting)
    (s : State) : State :=
  let groups := mask &&& entry.filter
  let marked : State := { s with lastMark := { cycle := some number, groups := groups } }
  ((marked.markSync entry.cycleSync number posts).samplerEvent .mark).requestCommits .mark
    (GroupSet.has groups)

/-- R84: an accepted CONFIG_CYCLE: settings, restart, what it means for the capture inputs (R121), and
the cycle start with the next local cycle number. -/
def State.configCycle (tick : Tick) (period : Nat) (mode : CycleMode) (s : State) : State :=
  { s with
    cycle := { tick := tick, period := period, mode := mode, base := s.now, number := s.cycle.number + 1 },
    caps := mapCaps (Capture.retick s.now) s.caps }.cycleStart []

end Sys2Proof.Machine
end

