-- ==== Sys2Proof/Machine/Flags.lean ====
section
/-!
DEFINITION. The views that follow the state with no delay and no latch: the drive pins (R89), the ATTN
pin (R189), the two line drivers (R29, R33, R40), and the packed status bytes of 12.5.
-/

namespace Sys2Proof.Machine

/-- What a drive pin shows. -/
inductive PinLevel where
  | highImpedance
  | low
  | high
  deriving DecidableEq, Repr

/-- 5.5: the pin level of an output under a polarity. -/
def pinOf : Polarity → Bool → PinLevel
  | .activeHigh, true => .high
  | .activeHigh, false => .low
  | .activeLow, true => .low
  | .activeLow, false => .high

/-- R89, conditions 2 to 4: is the output active? -/
def Channel.shown (groups : Vector GroupRec 4) (c : Channel) : Bool :=
  if groups[c.config.group].state = .stopped then false
  else match c.override with
    | .idle => false
    | .active => true
    | .none => c.modeOutput

/-- R89: the drive pin of a channel. -/
def State.drivePin (s : State) (d : Chan) : PinLevel :=
  if s.inReset then .highImpedance
  else pinOf s.chans[d].config.polarity (s.chans[d].shown s.groups)

/-- R189: a group state that holds ATTN. -/
def GroupState.holdsAttn : GroupState → Bool
  | .fallback => true
  | .resuming => true
  | .stopped => false
  | .run => false

/-- R189: is ATTN asserted? -/
def State.attn (s : State) : Bool :=
  !s.inReset && (!s.events.queue.isEmpty || allGroups.any fun g => (s.groupState g).holdsAttn)

/-- What a line driver does. -/
inductive LineDrive where
  | released
  | low
  | byte (b : Byte)
  deriving DecidableEq, Repr

/-- R33: the UP driver sends a response byte or releases the wire; the bridge sends no break on UP. -/
def State.upDrive (s : State) : LineDrive :=
  match s.up.tx with
  | some b => .byte b.value
  | none => .released

/-- R29 and R30: the DOWN driver. -/
def State.downDrive (s : State) : LineDrive :=
  match s.down.state with
  | .sendingBreak => .low
  | .rate => .byte 0xAA
  | .sending => match s.down.cur with
    | some e => .byte e.value
    | none => .released
  | _ => .released

/-- 12.5, READ_STATUS: a group byte. -/
def groupByte (r : GroupRec) : Byte :=
  groupStateCode r.state ||| (reasonCode r.reason <<< 2) ||| (if r.endPending then 0x10 else 0)

/-- 12.5, READ_TAG: the runtime byte. -/
def runtimeByte (r : Runtime) : Byte :=
  (r.lastSeq.getD 0).zeroExtend 8 ||| (if r.lastSeq.isSome then 0x40 else 0)
    ||| (if r.lastGeneration.isSome then 0x80 else 0)

/-- 12.5, READ_CHANNEL: the last-mark byte. -/
def lastMarkByte (m : LastMark) : Byte := maskByte m.groups ||| (if m.cycle.isSome then 0x80 else 0)

/-- 12.5, READ_SAMPLES: the word of an input's result and its sequence. -/
def sampleBytes (a : Analog) : List Byte :=
  twoBytes (a.value.toNat + (if a.valid then 0x4000 else 0) + (if a.outside then 0x8000 else 0)) ++ [a.seq]

/-- 12.5, READ_PUBLISH: the presence byte of the last-served sequences. -/
def presenceByte (served : Vector (Option Byte) 8) : Byte :=
  (List.finRange 8).foldl (fun b i => if served[i].isSome then b ||| byteOf (2 ^ i.val) else b) 0

end Sys2Proof.Machine
end

