-- ==== Sys2Proof/Machine/Operands.lean ====
section
/-!
DEFINITION. The operands of the management commands (R191): the checks that each owning rule makes on
them, in operand order. A check is the position of its operand and whether the operand is sound.
-/

namespace Sys2Proof.Machine

/-- An operand's position (the data byte number of its first byte) and whether it is sound. -/
abbrev Check := Nat × Bool

/-- R191: the position of the first faulty operand, counted in operand order. -/
def firstFault (checks : List Check) : Option Byte :=
  (checks.find? fun c => !c.2).map fun c => byteOf c.1

/-- The operand at an index, where the length test has passed (R168). -/
def operand (ops : List Byte) (i : Nat) : Byte := ops.getD i 0

/-- Is the byte below a bound? -/
def below (n : Nat) (b : Byte) : Bool := decide (b.toNat < n)

/-- A group mask, the one operand of four commands (R104, R76). -/
def maskChecks (mask : Byte) : List Check := [(1, maskOk mask)]

/-- SET_LINE (R175). -/
def setLineChecks (rate : Byte) : List Check := [(1, (rateOf rate).isSome)]

/-- READ_COUNTS (R187). -/
def readCountsChecks (view : Byte) : List Check := [(1, below 2 view)]

/-- ASSIGN_STATION (R176). -/
def stationChecks (station : Byte) : List Check := [(1, below 15 station)]

/-- WRITE_TAG, step 1 (R51). -/
def writeTagChecks (tag role forward expected first count filter buffer : Byte) : List Check :=
  [(1, below 64 tag), (2, (roleOf role).isSome), (3, (forwardOf forward).isSome),
   (4, (expectedOf expected).isSome), (5, below 48 first), (6, below 7 count), (8, maskOk filter),
   (10, below 8 buffer)]

/-- READ_TAG (R54). -/
def readTagChecks (bank tag : Byte) : List Check := [(1, (bankIsShadow bank).isSome), (2, below 64 tag)]

/-- A first index and a number of descriptors, at two positions (R53, R55). Where only their sum is
out of range, the number is the faulty one (DEDUCED, log 12). -/
def runChecks (pos : Nat) (first number : Byte) : List Check :=
  [(pos, below 48 first),
   (pos + 1, decide (1 ≤ number.toNat) && below 7 number && decide (first.toNat + number.toNat ≤ 48))]

/-- The two operand bytes of each descriptor, from a position on (R53, R191). -/
def descriptorChecks (pos : Nat) : List Byte → List Check
  | offset :: packed :: rest =>
    (pos, below 16 offset) :: (pos + 1, (packedOf packed).isSome) :: descriptorChecks (pos + 2) rest
  | _ => []

/-- WRITE_UNPACK (R53). -/
def writeUnpackChecks (first number : Byte) (descriptors : List Byte) : List Check :=
  runChecks 1 first number ++ descriptorChecks 3 descriptors

/-- READ_UNPACK (R55). -/
def readUnpackChecks (bank first number : Byte) : List Check :=
  (1, (bankIsShadow bank).isSome) :: runChecks 2 first number

/-- CONFIG_CYCLE, check 1 (R84). -/
def configCycleChecks (tick periodHigh periodLow mode : Byte) : List Check :=
  [(1, (tickOf tick).isSome),
   (2, decide (2 ≤ wordOf periodHigh periodLow) && decide (wordOf periodHigh periodLow ≤ 4096)),
   (4, (cycleModeOf mode).isSome)]

/-- CONFIG_CHANNEL, check 1 (R86): leader, trigger and retrigger only for the mode that uses them. -/
def configChannelChecks (chan mode group polarity leader trigger retrigger action : Byte) : List Check :=
  [(1, below 6 chan), (2, (chanModeOf mode).isSome), (3, below 4 group), (4, (polarityOf polarity).isSome),
   (5, decide (chanModeOf mode ≠ some .follow) || below 6 leader),
   (6, decide (chanModeOf mode ≠ some .oneshot) || (chanTriggerOf trigger).isSome),
   (7, decide (chanModeOf mode ≠ some .oneshot) || (retriggerOf retrigger).isSome),
   (8, (actionOf action).isSome)]

/-- CONFIG_GROUP, check 1 (R75). -/
def configGroupChecks (group sources quietTrip : Byte) : List Check :=
  [(1, below 4 group), (2, maskOk sources), (4, (quietTripOf quietTrip).isSome)]

/-- READ_CHANNEL (R77). -/
def readChannelChecks (chan view : Byte) : List Check := [(1, below 6 chan), (2, below 3 view)]

/-- CONFIG_CAPTURE (R128): the edge only for mode PERIOD. -/
def configCaptureChecks (input mode edge filter : Byte) : List Check :=
  [(1, below 4 input), (2, (captureModeOf mode).isSome),
   (3, decide (captureModeOf mode ≠ some .period) || (edgeOf edge).isSome), (4, (filterOf filter).isSome)]

/-- READ_CAPTURE (R130). -/
def readCaptureChecks (input : Byte) : List Check := [(1, below 4 input)]

/-- The list entries of CONFIG_SAMPLER that the list length reaches, from position 3 on (R142). -/
def scanListChecks (length : Nat) (entries : List Byte) : List Check :=
  (entries.take length).zipIdx.map fun (b, i) => (3 + i, below 4 b)

/-- CONFIG_SAMPLER (R142): for mode OFF, the list and the source are not checked. -/
def configSamplerChecks (mode length : Byte) (entries : List Byte) (source : Byte) : List Check :=
  (1, (samplerModeOf mode).isSome) ::
    (if samplerModeOf mode = some .off then []
     else (2, decide (1 ≤ length.toNat) && below 5 length) ::
       (scanListChecks length.toNat entries ++ [(7, (samplerSourceOf source).isSome)]))

/-- SET_LIMITS (R144). A low limit above the high limit is the high limit's fault (position 4), and it
comes before the trip mask's in operand order (DEDUCED, log 13). -/
def setLimitsChecks (input : Byte) (low high : Nat) (tripMask : Byte) : List Check :=
  [(1, below 4 input), (2, decide (low ≤ 1023)), (4, decide (high ≤ 1023) && decide (low ≤ high)),
   (6, maskOk tripMask)]

/-- READ_SAMPLES (R146): the input only for view LIMITS. -/
def readSamplesChecks (view input : Byte) : List Check :=
  [(1, below 3 view), (2, decide (view ≠ 2) || below 4 input)]

/-- WRITE_SOURCE, check 1 (R152). -/
def writeSourceChecks (index kind selector : Byte) : List Check :=
  [(1, below 32 index), (2, below 8 kind), (3, (sourceItemOf kind selector).isSome)]

/-- WRITE_PUBMAP, check 1 (R153). -/
def writePubmapChecks (buffer first count : Byte) : List Check :=
  [(1, below 8 buffer), (2, below 32 first),
   (3, below 9 count && decide (first.toNat + count.toNat ≤ 32))]

/-- READ_PUBLISH (R161): the operand by the view, the half only for SNAPSHOT. R161 names the position of one
faulty operand: where buffer and half are both faulty the model reports the first of them, as other
commands do (DEDUCED, log 12). -/
def readPublishChecks (view operand half : Byte) : List Check :=
  [(1, below 4 view), (2, if view = 3 then below 32 operand else below 8 operand),
   (3, decide (view ≠ 2) || below 2 half)]

end Sys2Proof.Machine
end

