-- ==== Sys2Proof/Machine/Tags.lean ====
section
/-!
DEFINITION. The tag table (chapter 3): lookup and the entry copy, runtime records, and the rules of
WRITE_TAG, READ_TAG, WRITE_UNPACK, READ_UNPACK, COPY_BANK and SWAP_BANKS.
-/

namespace Sys2Proof.Machine

/-! ### What a command's rule answers -/

/-- The state after a command's rule, its result and its reply data (R168, R170). -/
structure Ruling where
  state : State
  result : CmdResult
  data : List Byte

/-- A refusal or an answer that changes nothing. -/
def answer (result : CmdResult) (data : List Byte) (s : State) : Ruling :=
  { state := s, result := result, data := data }

/-- The BAD_OPERAND step of a rule (R191): the first faulty operand refuses the command. -/
def checked (checks : List Check) (s : State) (act : Ruling) : Ruling :=
  match firstFault checks with
  | some pos => answer .badOperand [pos] s
  | none => act

/-! ### Lookup (R43 to R45) -/

/-- R44: the unpack list of an entry in a bank. -/
def unpackList (b : Bank) (e : TagEntry) : List Descriptor :=
  (b.descriptors.toList.drop e.unpackFirst.val).take e.unpackCount.val

/-- R45: the entry copy of a tag, with the unpack list of a CONSUME entry and the generation. -/
def TagTable.lookup (t : TagTable) (tag : Tag) : EntryCopy :=
  let e := t.active.entries[tag]
  { entry := e, unpack := if e.role = .consume then unpackList t.active e else [],
    generation := t.generation }

/-- R43: does a kind match a role? -/
def kindMatches : TagKind → Role → Bool
  | _, .relay => true
  | _, .block => true
  | .put, .consume => true
  | .get, .publish => true
  | .mark, .marker => true
  | .get, .consume => false
  | .mark, .consume => false
  | .put, .publish => false
  | .mark, .publish => false
  | .put, .marker => false
  | .get, .marker => false

/-- R21: the forward field of an entry as a frame's forward decision. -/
def Forward.decision : Forward → FrameForward
  | .none => .none
  | .down => .down

/-! ### Runtime records (R48, R49) -/

/-- Writes one runtime record. -/
def State.setRuntime (tag : Tag) (r : Runtime) (s : State) : State :=
  { s with tags := { s.tags with runtime := s.tags.runtime.set tag r } }

/-- R49: a frame is accepted on a tag. -/
def Runtime.accept (generation : Byte) (r : Runtime) : Runtime :=
  { r with accepted := r.accepted + 1, lastGeneration := some generation }

/-- R49: a frame without a sequence test is accepted. -/
def State.acceptFrame (tag : Tag) (generation : Byte) (s : State) : State :=
  s.setRuntime tag (s.tags.runtime[tag].accept generation)

/-- R48: a PUT is accepted; its sequence is recorded too. -/
def State.acceptPut (tag : Tag) (seq : Seq) (generation : Byte) (s : State) : State :=
  s.setRuntime tag { s.tags.runtime[tag].accept generation with lastSeq := some seq }

/-! ### Commands -/

/-- R52: the fields that the role fixes. -/
def TagEntry.stored (e : TagEntry) : TagEntry :=
  match e.role with
  | .relay => { e with forward := .down, expected := .any }
  | .block => { e with forward := .none, expected := .any }
  | .marker => { e with expected := .exactly 2 }
  | .publish => e
  | .consume => e

/-- R51, step 2: PUBLISH with DOWN, or CONSUME with ANY. -/
def TagEntry.forbidden (e : TagEntry) : Bool :=
  (decide (e.role = .publish) && decide (e.forward = .down))
    || (decide (e.role = .consume) && decide (e.expected = .any))

/-- The entry that sound WRITE_TAG operands name (R51, R191). -/
def entryOf (role forward expected first count commitAfter filter sync buffer : Byte) : TagEntry :=
  { role := (roleOf role).getD .relay, forward := (forwardOf forward).getD .none,
    expected := (expectedOf expected).getD .any, unpackFirst := (finOf 48 first).getD 0,
    unpackCount := (finOf 7 count).getD 0, commitAfter := decide (commitAfter ≠ 0),
    filter := maskOf filter, cycleSync := decide (sync ≠ 0), buffer := (finOf 8 buffer).getD 0 }

/-- R51 and R52: WRITE_TAG. -/
def ruleWriteTag (tag role forward expected first count commitAfter filter sync buffer : Byte)
    (s : State) : Ruling :=
  checked (writeTagChecks tag role forward expected first count filter buffer) s <|
    let e := entryOf role forward expected first count commitAfter filter sync buffer
    if e.forbidden then answer .badEntry [tag] s
    else
      let entries := s.tags.shadow.entries.set ((finOf 64 tag).getD 0) e.stored
      { state := { s with tags := { s.tags with shadow := { s.tags.shadow with entries := entries } } },
        result := .ok, data := [tag] }

/-- 12.5: the nine entry bytes of READ_TAG. -/
def entryBytes (e : TagEntry) : List Byte :=
  [roleCode e.role, forwardCode e.forward, expectedCode e.expected, byteOf e.unpackFirst.val,
   byteOf e.unpackCount.val, flagByte e.commitAfter, maskByte e.filter, flagByte e.cycleSync,
   byteOf e.buffer.val]

/-- A bank by its selector (12.4). -/
def TagTable.bank (t : TagTable) (selector : Byte) : Bank :=
  if bankIsShadow selector = some true then t.shadow else t.active

/-- R54: READ_TAG. -/
def ruleReadTag (bank tag : Byte) (s : State) : Ruling :=
  checked (readTagChecks bank tag) s <|
    let i : Tag := (finOf 64 tag).getD 0
    let r := s.tags.runtime[i]
    answer .ok (entryBytes (s.tags.bank bank).entries[i] ++
      [s.tags.generation, runtimeByte r, r.accepted, r.lastGeneration.getD 0]) s

/-- The descriptors of a list of operand bytes, two bytes each. -/
def descriptorsOf : List Byte → List Descriptor
  | offset :: packed :: rest =>
    (descriptorOf offset packed).getD .reset :: descriptorsOf rest
  | _ => []

/-- Writes descriptors at consecutive indexes; an index beyond the table is not written. -/
def writeRun (table : Vector Descriptor 48) (first : Nat) : List Descriptor → Vector Descriptor 48
  | [] => table
  | d :: ds => writeRun (table.setIfInBounds first d) (first + 1) ds

/-- R53: WRITE_UNPACK. -/
def ruleWriteUnpack (first number : Byte) (descriptors : List Byte) (s : State) : Ruling :=
  checked (writeUnpackChecks first number descriptors) s <|
    let table := writeRun s.tags.shadow.descriptors first.toNat (descriptorsOf descriptors)
    { state := { s with tags := { s.tags with shadow := { s.tags.shadow with descriptors := table } } },
      result := .ok, data := [first, number] }

/-- R55: READ_UNPACK. -/
def ruleReadUnpack (bank first number : Byte) (s : State) : Ruling :=
  checked (readUnpackChecks bank first number) s <|
    let run := ((s.tags.bank bank).descriptors.toList.drop first.toNat).take number.toNat
    answer .ok (run.map descriptorBytes).flatten s

/-- R56: COPY_BANK. -/
def ruleCopyBank (s : State) : Ruling :=
  { state := { s with tags := { s.tags with shadow := s.tags.active } },
    result := .ok, data := [s.tags.generation] }

/-- Why SWAP_BANKS fails at an entry (R57), with the descriptor index where there is one. -/
inductive SwapFault where
  | list
  | descriptor (index : Nat)
  deriving DecidableEq, Repr

/-- R57, test 2: do a descriptor's bytes lie within an expected length? -/
def Descriptor.within (expected : ExpectedLength) (d : Descriptor) : Bool :=
  let size := match d.size with
    | .one => 1
    | .two => 2
  match expected with
  | .any => false
  | .exactly n => decide (d.offset.val + size ≤ n.val)

/-- R57: the tests of one entry, in their order. -/
def entryFault (b : Bank) (e : TagEntry) : Option SwapFault :=
  if e.role ≠ .consume then none
  else if 48 < e.unpackFirst.val + e.unpackCount.val then some .list
  else ((unpackList b e).findIdx? fun d => !d.within e.expected).map fun i =>
    .descriptor (e.unpackFirst.val + i)

/-- R57: the first tag, from 0 up, whose entry fails, and why. -/
def bankFault (b : Bank) : Option (Tag × SwapFault) :=
  allTags.findSome? fun tag => (entryFault b b.entries[tag]).map fun why => (tag, why)

/-- 12.5: the reply data of a refused SWAP_BANKS. -/
def swapFaultBytes : Tag × SwapFault → List Byte
  | (tag, .list) => [byteOf tag.val, 2, 0xFF]
  | (tag, .descriptor i) => [byteOf tag.val, 3, byteOf i]

/-- R58: the banks exchange their roles and the generation steps. -/
def TagTable.swap (t : TagTable) : TagTable :=
  { t with active := t.shadow, shadow := t.active, generation := t.generation + 1 }

/-- R57 and R58: SWAP_BANKS. -/
def ruleSwapBanks (s : State) : Ruling :=
  match bankFault s.tags.shadow with
  | some fault => answer .badEntry (swapFaultBytes fault) s
  | none =>
    let t := s.tags.swap
    { state := { s with tags := t }.post
        { code := .swap, subject := .none, detail := .byte t.generation },
      result := .ok, data := [t.generation] }

end Sys2Proof.Machine
end

