-- ==== Sys2Proof/Machine/DriveRules.lean ====
section
/-!
DEFINITION. The rules of CONFIG_CYCLE, CONFIG_CHANNEL, CONFIG_GROUP, the group commands, COMMIT and
READ_CHANNEL (chapters 4, 5 and 6).
-/

namespace Sys2Proof.Machine

/-- R84: CONFIG_CYCLE. -/
def ruleConfigCycle (tick periodHigh periodLow mode : Byte) (s : State) : Ruling :=
  checked (configCycleChecks tick periodHigh periodLow mode) s <|
    let busy := groupSetOf fun g => decide (s.groupState g ≠ .stopped)
    if busy ≠ 0 then answer .state [maskByte busy] s
    else
      let t := s.configCycle ((tickOf tick).getD .us10) (wordOf periodHigh periodLow)
        ((cycleModeOf mode).getD .free)
      { state := t, result := .ok, data := [tick, periodHigh, periodLow, mode, t.cycle.number] }

/-- The configuration that sound CONFIG_CHANNEL operands name (R86, R87): NONE for the fields that the
mode does not use. -/
def chanConfigOf (mode group polarity leader trigger retrigger action : Byte) : ChanConfig :=
  let m := (chanModeOf mode).getD .off
  { mode := m, group := (finOf 4 group).getD 0, polarity := (polarityOf polarity).getD .activeHigh,
    leader := if m = .follow then finOf 6 leader else none,
    trigger := if m = .oneshot then chanTriggerOf trigger else none,
    retrigger := if m = .oneshot then retriggerOf retrigger else none,
    action := (actionOf action).getD .idle }

/-- 12.5: the reason byte of a failed leader test. -/
def leaderFaultCode : LeaderFault → Byte
  | .order => 1
  | .mode => 2

/-- R86, check 3: why a new configuration of channel d is refused, as reply data. -/
def channelEntryFault (s : State) (d : Chan) (config : ChanConfig) : Option (List Byte) :=
  let own := if s.groupState config.group ≠ .stopped ∧ config.mode = .follow then
      leaderTest s.chans d config.leader
    else none
  match own with
  | some why => some [leaderFaultCode why, 0xFF]
  | none =>
    if config.mode.mayLead then none
    else (followerOf s.chans s.groups d).map fun f => [3, byteOf f.val]

/-- R86 and R87: CONFIG_CHANNEL. -/
def ruleConfigChannel (chan mode group polarity leader trigger retrigger action : Byte) (s : State) :
    Ruling :=
  checked (configChannelChecks chan mode group polarity leader trigger retrigger action) s <|
    let d : Chan := (finOf 6 chan).getD 0
    let config := chanConfigOf mode group polarity leader trigger retrigger action
    let present := s.chans[d].config.group
    if s.groupState present ≠ .stopped then
      answer .state [byteOf present.val, groupStateCode (s.groupState present)] s
    else match channelEntryFault s d config with
      | some data => answer .badEntry data s
      | none =>
        { state := s.setChan d (s.chans[d].configured config (s.groupState config.group)),
          result := .ok, data := [chan] }

/-- R75: CONFIG_GROUP. -/
def ruleConfigGroup (group sources holdLimit quietTrip : Byte) (s : State) : Ruling :=
  checked (configGroupChecks group sources quietTrip) s <|
    let g : Group := (finOf 4 group).getD 0
    if s.groupState g ≠ .stopped then answer .state [groupStateCode (s.groupState g)] s
    else
      { state := s.setGroup g { s.groups[g] with
          sources := maskOf sources, holdLimit := holdLimit,
          quietTrip := (quietTripOf quietTrip).getD false },
        result := .ok, data := [group] }

/-- Applies an action to the groups for which a test holds, in the order G0 to G3 (R104). -/
def State.eachGroup (p : Group → Bool) (f : Group → State → State) (s : State) : State :=
  allGroups.foldl (fun t g => if p g then f g t else t) s

/-- R105: is a group refused by entry, and why? Only a STOPPED group gets as far as the leader test. -/
def startFault (s : State) (g : Group) : Option (Chan × LeaderFault) :=
  if s.groupState g = .stopped then groupLeaderFault s.chans g else none

/-- R105: the groups that GROUP_START acts on. -/
def startable (s : State) (g : Group) : Bool :=
  decide (s.groupState g = .stopped) && (groupLeaderFault s.chans g).isNone

/-- 12.5: the last three bytes of a GROUP_START reply. -/
def startFaultBytes (s : State) (named : Group → Bool) : List Byte :=
  match allGroups.findSome? fun g => if named g then (startFault s g).map fun w => (g, w) else none with
  | some (g, d, why) => [byteOf g.val, byteOf d.val, leaderFaultCode why]
  | none => [0xFF, 0xFF, 0xFF]

/-- R104 and R105: GROUP_START. No group's start changes what decides another's, so the tests read the
state that the command found. -/
def ruleGroupStart (mask : Byte) (s : State) : Ruling :=
  checked (maskChecks mask) s <|
    let named := GroupSet.has (maskOf mask)
    let acted := groupSetOf fun g => named g && startable s g
    let refused := groupSetOf fun g => named g && !startable s g
    let byEntry := allGroups.any fun g => named g && (startFault s g).isSome
    { state := s.eachGroup (GroupSet.has acted) State.startGroup,
      result := if byEntry then .badEntry else if refused ≠ 0 then .state else .ok,
      data := [maskByte acted, maskByte refused] ++ startFaultBytes s named }

/-- R104 and R106: GROUP_STOP. -/
def ruleGroupStop (mask : Byte) (s : State) : Ruling :=
  checked (maskChecks mask) s
    { state := s.eachGroup (GroupSet.has (maskOf mask)) State.stopGroup, result := .ok, data := [mask, 0] }

/-- R104 and R113: GROUP_RESUME. -/
def ruleGroupResume (mask : Byte) (s : State) : Ruling :=
  checked (maskChecks mask) s <|
    let named := GroupSet.has (maskOf mask)
    let acted := groupSetOf fun g => named g && decide (s.groupState g = .fallback)
    let refused := groupSetOf fun g => named g && decide (s.groupState g ≠ .fallback)
    { state := s.eachGroup (GroupSet.has acted) State.resumeGroup,
      result := if refused ≠ 0 then .state else .ok, data := [maskByte acted, maskByte refused] }

/-- R76: COMMIT. -/
def ruleCommit (mask : Byte) (s : State) : Ruling :=
  checked (maskChecks mask) s <|
    let named := GroupSet.has (maskOf mask)
    let hasSource (g : Group) := s.groups[g].sources.getLsbD Source.mgmt.bit
    let committed := groupSetOf fun g => named g && s.groups[g].accepts .mgmt
    let noSource := groupSetOf fun g => named g && !hasSource g
    let wrongState := groupSetOf fun g => named g && hasSource g && (s.groupState g).discards
    { state := s.requestCommits .mgmt named,
      result := if committed = maskOf mask then .ok else .state,
      data := [maskByte committed, maskByte noSource, maskByte wrongState] }

/-- R77: the RECORDS view. -/
def recordsBytes (c : Channel) : List Byte :=
  orAbsent c.stage.setpoint ++ orAbsent c.stage.delay ++ [orNone (c.stage.source.map fun t => byteOf t.val)]
    ++ orAbsent c.armed.setpoint ++ orAbsent c.armed.delay
    ++ twoBytes c.active.setpoint.toNat ++ twoBytes c.active.delay.toNat

/-- R78: the COUNTS view. -/
def countsBytes (s : State) (c : Channel) : List Byte :=
  let r := s.groups[c.config.group]
  [byteOf c.config.group.val, c.stage.overwrite, c.clamp, c.ignored, r.discard, maskByte r.sources,
   r.holdLimit, flagByte r.quietTrip, s.lastMark.cycle.getD 0, lastMarkByte s.lastMark]

/-- R78: what COUNTS_CLEAR sets to 0. -/
def State.clearChannelCounts (d : Chan) (s : State) : State :=
  let c := s.chans[d]
  let t := s.setChan d { c with stage := { c.stage with overwrite := 0 }, clamp := 0, ignored := 0 }
  t.setGroup c.config.group { t.groups[c.config.group] with discard := 0 }

/-- R77 and R78: READ_CHANNEL. -/
def ruleReadChannel (chan view : Byte) (s : State) : Ruling :=
  checked (readChannelChecks chan view) s <|
    let d : Chan := (finOf 6 chan).getD 0
    if view = 0 then answer .ok (recordsBytes s.chans[d]) s
    else
      { state := if view = 2 then s.clearChannelCounts d else s,
        result := .ok, data := countsBytes s s.chans[d] }

end Sys2Proof.Machine
end

