-- ==== Sys2Proof/Machine/Publish.lean ====
section
/-!
DEFINITION. The publish unit (chapter 9): item sizes, reading items, the FRESH byte, building and
serving a snapshot.
-/

namespace Sys2Proof.Machine

/-- 9.1: the size of an item. -/
def SourceItem.size : SourceItem → Nat
  | .captureValue _ => 2
  | .captureSeq _ => 1
  | .sampleValue _ => 2
  | .channelActive _ => 2
  | .groupState _ => 1
  | .cycle => 1
  | .fresh => 1
  | .const _ => 1

/-- 9.2: the items of a map, map item 0 first. -/
def mapItems (source : Vector SourceItem 32) (m : PubMap) : List SourceItem :=
  (source.toList.drop m.first.val).take m.count.val

/-- 9.2: the size of a map, the sum of its items' sizes. -/
def mapSize (source : Vector SourceItem 32) (m : PubMap) : Nat :=
  ((mapItems source m).map SourceItem.size).sum

/-- R149: the sequence an item yields when read; NONE if it is not sequenced. -/
def State.itemSeq (s : State) : SourceItem → Option Byte
  | .captureValue k => some s.caps[k].seq
  | .captureSeq k => some s.caps[k].seq
  | .sampleValue k => some s.sampler.inputs[k].seq
  | .channelActive _ => none
  | .groupState _ => none
  | .cycle => none
  | .fresh => none
  | .const _ => none

/-- R149: the bytes of an item; a FRESH item gives the byte it is handed (R156). -/
def State.itemBytes (s : State) (fresh : Byte) : SourceItem → List Byte
  | .captureValue k => twoBytes s.caps[k].value.toNat
  | .captureSeq k => [s.caps[k].seq]
  | .sampleValue k => twoBytes s.sampler.inputs[k].value.toNat
  | .channelActive d => twoBytes s.chans[d].active.setpoint.toNat
  | .groupState g => [groupStateCode (s.groupState g)]
  | .cycle => [s.cycle.number]
  | .fresh => [fresh]
  | .const v => [v]

/-- R156: bit i is 1 when the item at position i is sequenced and its sequence differs from
last-served entry i. The lists are read together from position i on. -/
def freshBits (i : Nat) : List (Option Byte) → List (Option Byte) → Byte
  | [], _ => 0
  | q :: qs, served =>
    (if q.isSome ∧ q ≠ served.headD none then byteOf (2 ^ i) else 0) ||| freshBits (i + 1) qs served.tail

/-- The sequences of a map's items as they stand. -/
def State.mapSeqs (s : State) (m : PubMap) : List (Option Byte) :=
  (mapItems s.publish.source m).map s.itemSeq

/-- R156: the FRESH byte that a snapshot of buffer b built at this moment carries. -/
def State.freshByte (b : Buf) (s : State) : Byte :=
  freshBits 0 (s.mapSeqs s.publish.maps[b]) s.publish.records[b].served.toList

/-- R155: the bytes of a snapshot of buffer b built at this moment. -/
def State.snapshotBytes (b : Buf) (s : State) : List Byte :=
  ((mapItems s.publish.source s.publish.maps[b]).map (s.itemBytes (s.freshByte b))).flatten

/-- Writes one buffer record. -/
def State.setRecord (b : Buf) (r : PubRecord) (s : State) : State :=
  { s with publish := { s.publish with records := s.publish.records.set b r } }

/-- R155: the snapshot and its sequences are built at one instant. -/
def State.buildSnapshot (b : Buf) (s : State) : State :=
  s.setRecord b { s.publish.records[b] with
    snapshot := s.snapshotBytes b, snapshotSeqs := s.mapSeqs s.publish.maps[b] }

/-- R158: entries 0 to count-1 take the snapshot sequences; later entries keep their values. -/
def servedAfter (seqs : List (Option Byte)) (served : Vector (Option Byte) 8) : Vector (Option Byte) 8 :=
  let entry (i : Fin 8) : Option Byte := (seqs[i.val]?).getD served[i]
  #v[entry 0, entry 1, entry 2, entry 3, entry 4, entry 5, entry 6, entry 7]

/-- R158: a response of the buffer was delivered. -/
def PubRecord.delivered (r : PubRecord) : PubRecord :=
  { r with served := servedAfter r.snapshotSeqs r.served, servedCount := r.servedCount + 1,
           outcome := some .served }

/-- R158. -/
def State.served (b : Buf) (s : State) : State := s.setRecord b s.publish.records[b].delivered

/-- R159: a response of the buffer was cut by a conflict. -/
def State.serveCut (b : Buf) (s : State) : State :=
  s.setRecord b { s.publish.records[b] with outcome := some .conflict }

/-- R152, check 2: the lowest-numbered buffer whose map holds the item and would exceed 16 bytes with
the new item, and the size it would have. -/
def oversizedMap (source : Vector SourceItem 32) (maps : Vector PubMap 8) (index : Fin 32) :
    Option (Buf × Nat) :=
  (List.finRange 8).findSome? fun b =>
    let m := maps[b]
    if m.first.val ≤ index.val ∧ index.val < m.first.val + m.count.val ∧ 16 < mapSize source m then
      some (b, mapSize source m)
    else none

end Sys2Proof.Machine
end

