-- ==== Sys2Proof/Machine/MeasureRules.lean ====
section
/-!
DEFINITION. The rules of CONFIG_CAPTURE, READ_CAPTURE, CONFIG_SAMPLER, SET_LIMITS, SAMPLE_NOW,
READ_SAMPLES, WRITE_SOURCE, WRITE_PUBMAP and READ_PUBLISH (chapters 7, 8 and 9).
-/

namespace Sys2Proof.Machine

/-! ### Capture inputs -/

/-- R128: CONFIG_CAPTURE. -/
def ruleConfigCapture (input mode edge filter : Byte) (s : State) : Ruling :=
  checked (configCaptureChecks input mode edge filter) s <|
    let k : CapIn := (finOf 4 input).getD 0
    { state := s.setCap k (s.caps[k].configured s.now ((captureModeOf mode).getD .off) (edgeOf edge)
        ((filterOf filter).getD .f0)),
      result := .ok, data := [input] }

/-- 12.5: the reply data of READ_CAPTURE. -/
def captureBytes (tick : Tick) (now : Time) (c : Capture) : List Byte :=
  [captureModeCode c.mode, orNone (c.edge.map edgeCode), byteOf c.filter.width, measureCode c.measure]
    ++ twoBytes (c.progress tick now).toNat ++ [orNone (c.filtered.map levelCode)]
    ++ twoBytes c.value.toNat ++ [captureStatusCode c.status, c.seq]

/-- R130: READ_CAPTURE. -/
def ruleReadCapture (input : Byte) (s : State) : Ruling :=
  checked (readCaptureChecks input) s <|
    answer .ok (captureBytes s.cycle.tick s.now s.caps[((finOf 4 input).getD 0 : CapIn)]) s

/-! ### Sampler -/

/-- R142: the sampler under sound CONFIG_SAMPLER operands. -/
def Sampler.configured (mode : SamplerMode) (list : List AnIn) (source : Option SamplerSource)
    (sm : Sampler) : Sampler :=
  { sm with
    mode := mode, list := if mode = .off then [] else list,
    source := if mode = .off then none else source, scan := mode.idleScan, overrun := 0 }

/-- R142: CONFIG_SAMPLER. -/
def ruleConfigSampler (mode length entry0 entry1 entry2 entry3 source : Byte) (s : State) : Ruling :=
  let entries := [entry0, entry1, entry2, entry3]
  checked (configSamplerChecks mode length entries source) s <|
    let list := (entries.take length.toNat).map fun b => (finOf 4 b).getD 0
    let sm := s.sampler.configured ((samplerModeOf mode).getD .off) list
      ((samplerSourceOf source).getD none)
    { state := { s with sampler := sm }, result := .ok, data := [scanCode sm.scan] }

/-- R144: SET_LIMITS. -/
def ruleSetLimits (input lowHigh lowLow highHigh highLow tripMask : Byte) (s : State) : Ruling :=
  let low := wordOf lowHigh lowLow
  let high := wordOf highHigh highLow
  checked (setLimitsChecks input low high tripMask) s <|
    let a : AnIn := (finOf 4 input).getD 0
    let r := { s.sampler.inputs[a] with
      low := BitVec.ofNat 10 low, high := BitVec.ofNat 10 high, trip := maskOf tripMask, outside := false }
    { state := { s with sampler := { s.sampler with inputs := s.sampler.inputs.set a r } },
      result := .ok, data := [input] }

/-- 8.1: the idle states in which a trigger starts a scan. -/
def Scan.startsOnTrigger : Scan → Bool
  | .ready => true
  | .asleep => true
  | .off => false
  | .settling _ => false
  | .converting _ _ => false

/-- R145: SAMPLE_NOW. Where it starts a scan the reply shows the new scan state; where it is refused it
shows the state found, which the trigger leaves as it was. -/
def ruleSampleNow (s : State) : Ruling :=
  let sm := s.sampler.trigger s.now
  { state := { s with sampler := sm },
    result := if s.sampler.scan.startsOnTrigger then .ok else .state, data := [scanCode sm.scan] }

/-- R146 and 12.5: the SCAN view; unused list entries are NONE (DEDUCED, log 14). -/
def scanBytes (sm : Sampler) : List Byte :=
  let entry (i : Nat) : Byte := orNone ((sm.list[i]?).map fun a => byteOf a.val)
  let pos : Option Byte := match sm.scan with
    | .converting pos _ => some (byteOf pos.val)
    | _ => none
  [samplerModeCode sm.mode, byteOf sm.list.length, entry 0, entry 1, entry 2, entry 3,
   samplerSourceCode sm.source, scanCode sm.scan, orNone pos, sm.overrun]

/-- R146 and 12.5: the LIMITS view. The outside flag is sent as 0 for clear and 1 for set, which no code table
gives (DEDUCED, log 37). -/
def limitsBytes (a : Analog) : List Byte :=
  twoBytes a.low.toNat ++ twoBytes a.high.toNat ++ [maskByte a.trip, flagByte a.outside]

/-- R146: READ_SAMPLES. -/
def ruleReadSamples (view input : Byte) (s : State) : Ruling :=
  checked (readSamplesChecks view input) s <|
    let inputs := s.sampler.inputs
    if view = 0 then
      answer .ok (sampleBytes inputs[0] ++ sampleBytes inputs[1] ++ sampleBytes inputs[2]
        ++ sampleBytes inputs[3]) s
    else if view = 1 then answer .ok (scanBytes s.sampler) s
    else answer .ok (limitsBytes inputs[((finOf 4 input).getD 0 : AnIn)]) s

/-! ### Publish unit -/

/-- R152: WRITE_SOURCE. -/
def ruleWriteSource (index kind selector : Byte) (s : State) : Ruling :=
  checked (writeSourceChecks index kind selector) s <|
    let i : Fin 32 := (finOf 32 index).getD 0
    let item := (sourceItemOf kind selector).getD (.const 0)
    let source := s.publish.source.set i item
    match oversizedMap source s.publish.maps i with
    | some (b, size) => answer .badEntry [byteOf b.val, byteOf size] s
    | none =>
      { state := { s with publish := { s.publish with source := source } },
        result := .ok, data := [index, byteOf item.size] }

/-- R153: WRITE_PUBMAP. -/
def ruleWritePubmap (buffer first count : Byte) (s : State) : Ruling :=
  checked (writePubmapChecks buffer first count) s <|
    let m : PubMap := { first := (finOf 32 first).getD 0, count := (finOf 9 count).getD 0 }
    let size := mapSize s.publish.source m
    if 16 < size then answer .badEntry [byteOf size] s
    else
      { state := { s with publish := { s.publish with
          maps := s.publish.maps.set ((finOf 8 buffer).getD 0) m } },
        result := .ok, data := [buffer, byteOf size] }

/-- R161: the MAP view. -/
def mapBytes (b : Buf) (s : State) : List Byte :=
  let m := s.publish.maps[b]
  let r := s.publish.records[b]
  [byteOf m.first.val, byteOf m.count.val, byteOf (mapSize s.publish.source m)]
    ++ twoBytes r.servedCount.toNat ++ [serveOutcomeCode r.outcome, s.freshByte b]

/-- R161: the SERVED view. -/
def servedBytes (r : PubRecord) : List Byte :=
  presenceByte r.served :: r.served.toList.map fun q => q.getD 0

/-- R161: the SNAPSHOT view. -/
def snapshotHalf (half : Byte) (r : PubRecord) : List Byte :=
  byteOf r.snapshot.length :: (r.snapshot.drop (8 * half.toNat)).take 8

/-- R161 and 12.5: the SOURCE view; the content of a FRESH item is the byte given (log 11). -/
def sourceBytes (s : State) (fresh : Byte) (item : SourceItem) : List Byte :=
  let content := match s.itemBytes fresh item with
    | [b] => [0, b]
    | bytes => bytes
  let seq := s.itemSeq item
  [sourceKindCode item, orNone (sourceSelector item), byteOf item.size] ++ content
    ++ [flagByte seq.isSome, seq.getD 0]

/-- R161: READ_PUBLISH. It changes no state of the part; a FRESH item read outside any build shows a
free value, whose draw is counted (log 11). -/
def rulePublishSource (i : Fin 32) (s : State) : Ruling :=
  let item := s.publish.source[i]
  if item = .fresh then
    { state := { s with draws := s.draws + 1 }, result := .ok,
      data := sourceBytes s (Config.freshOutsideBuild s.draws) item }
  else answer .ok (sourceBytes s 0 item) s

/-- R161: READ_PUBLISH, by its view. -/
def ruleReadPublish (view operand half : Byte) (s : State) : Ruling :=
  checked (readPublishChecks view operand half) s <|
    let b : Buf := (finOf 8 operand).getD 0
    if view = 0 then answer .ok (mapBytes b s) s
    else if view = 1 then answer .ok (servedBytes s.publish.records[b]) s
    else if view = 2 then answer .ok (snapshotHalf half s.publish.records[b]) s
    else rulePublishSource ((finOf 32 operand).getD 0) s

end Sys2Proof.Machine
end

