-- ==== Sys2Proof/Machine/Management.lean ====
section
/-!
DEFINITION. The management unit (chapter 10): the rules of its own commands and of the event and status
commands (chapter 11), the soft reset, the sequence test, decoding, broadcasts, and the reply record.
-/

namespace Sys2Proof.Machine

/-! ### The line and station commands -/

/-- The station number as a reply byte; NONE is 0xFF (R192). -/
def stationByte (station : Option (Fin 15)) : Byte := orNone (station.map fun n => byteOf n.val)

/-- 12.5: the part identity. -/
def partIdentity : Byte := 0xB6

/-- R174: PING. -/
def rulePing (s : State) : Ruling :=
  answer .ok [partIdentity, stationByte s.mgmt.station, rateCode s.mgmt.rate, s.mgmt.quietLimit,
    s.mgmt.rejects] s

/-- R175: SET_LINE. The quiet timer runs with the new limit from this pass. -/
def ruleSetLine (rate limit : Byte) (s : State) : Ruling :=
  checked (setLineChecks rate) s
    { state := { s with mgmt := { s.mgmt with
        rate := (rateOf rate).getD .r9600, quietLimit := limit } }.restartQuiet,
      result := .ok, data := [rate, limit] }

/-- R176 and R178: the station number and the assigned flag change together, and STATION is posted. -/
def State.setStation (station : Option (Fin 15)) (s : State) : State :=
  { s with mgmt := { s.mgmt with station := station } }.post
    { code := .station, subject := .none,
      detail := match station with
        | some n => .byte (byteOf n.val)
        | none => .none }

/-- R176 and R177: ASSIGN_STATION, own and broadcast. -/
def ruleAssignStation (via : Via) (station : Byte) (s : State) : Ruling :=
  match via with
  | .own => answer .state [stationByte s.mgmt.station] s
  | .broadcast =>
    if s.assigned then answer .ok [] s
    else checked (stationChecks station) s
      { state := s.setStation (finOf 15 station), result := .ok, data := [] }

/-- R178: UNASSIGN. -/
def ruleUnassign (s : State) : Ruling := { state := s.setStation none, result := .ok, data := [] }

/-! ### Soft reset (R179) -/

/-- R41: the UP port. An expiry of the quiet timer that met this pass finds every group STOPPED (R180). -/
def UpPort.softReset (limit : Byte) (now : Time) (u : UpPort) : UpPort :=
  { u with start := none, resp := [], counts := .zero, quiet := quietUnder limit, quietSince := now, met := none }

/-- R163, soft reset column. -/
def Mgmt.softReset (m : Mgmt) : Mgmt := { m with lastSeq := none, rejects := 0 }

/-- R179: every block takes its soft-reset values; `carrier` is the frame that carried the command, if
the bridge holds one (R41). -/
def State.softReset (carrier : Option Nat) (s : State) : State :=
  { s with
    up := s.up.softReset s.mgmt.quietLimit s.now, fc := .reset,
    relay := keepCarrier carrier s.relay, down := s.down.softReset carrier, tags := .reset,
    chans := Vector.replicate 6 .reset, groups := Vector.replicate 4 .reset, lastMark := .reset,
    cycle := .resetAt s.now, caps := mapCaps (fun c => .resetAt c.pin) s.caps, sampler := .reset,
    publish := .reset, mgmt := s.mgmt.softReset, events := .reset }

/-- R179: SOFT_RESET, with the event that follows the reset (R190). -/
def ruleSoftReset (via : Via) (carrier : Option Nat) (s : State) : Ruling :=
  { state := (s.softReset carrier).post
      { code := .softReset, subject := .none,
        detail := match via with
          | .own => .addressed
          | .broadcast => .broadcast },
    result := .ok, data := [] }

/-! ### Status, counters and events (chapter 11) -/

/-- R186: READ_STATUS. -/
def ruleReadStatus (s : State) : Ruling :=
  answer .ok [groupByte s.groups[0], groupByte s.groups[1], groupByte s.groups[2], groupByte s.groups[3],
    byteOf s.events.queue.length, s.events.lost, s.tags.generation, stationByte s.mgmt.station,
    flagByte s.assigned, scanCode s.sampler.scan, quietStateCode s.up.quiet] s

/-- R187: the UP view, without the two counts that follow it. -/
def upCountsBytes (c : UpCounts) : List Byte :=
  [c.framesOk, c.rate, c.format, c.framing, c.gap, c.length, c.check, c.mismatch, c.repeats, c.conflict,
   c.stray]

/-- R187: the DOWN view. -/
def downCountsBytes (c : DownCounts) : List Byte :=
  [c.framesOk, c.check, c.framing, c.gap, c.timeout, c.conflict, c.foreign]

/-- R187: READ_COUNTS. -/
def ruleReadCounts (view : Byte) (s : State) : Ruling :=
  checked (readCountsChecks view) s <|
    if view = 0 then answer .ok (upCountsBytes s.up.counts ++ [s.mgmt.rejects, s.events.lost]) s
    else answer .ok (downCountsBytes s.down.counts) s

/-- R188: CLEAR_COUNTS. -/
def ruleClearCounts (s : State) : Ruling :=
  { state := { s with
      up := { s.up with counts := .zero }, down := { s.down with counts := .zero },
      mgmt := { s.mgmt with rejects := 0 }, events := { s.events with lost := 0 } },
    result := .ok, data := [] }

/-- R184 and R193: EVENT_READ. -/
def ruleEventRead (s : State) : Ruling :=
  let shown := s.events.queue.take 2
  answer .ok ([byteOf shown.length, byteOf (s.events.queue.length - shown.length), s.events.lost]
    ++ (shown.map eventBytes).flatten) s

/-- R185: EVENT_ACK. -/
def ruleEventAck (stamp : Byte) (s : State) : Ruling :=
  let queue := s.events.queue
  match queue.findIdx? fun e => e.stamp == stamp with
  | some i =>
    { state := { s with events := { s.events with queue := queue.drop (i + 1) } },
      result := .ok, data := [byteOf (i + 1), byteOf (queue.length - (i + 1))] }
  | none =>
    answer .notFound [byteOf queue.length, orNone (queue.head?.map fun e => e.stamp)] s

/-! ### Decoding and execution (R168, R169) -/

/-- R168, step 2: the operand length expected, where the one received is wrong. -/
def lengthFault (code : CmdCode) (ops : List Byte) : Option Nat :=
  match code with
  | .writeUnpack =>
    if ops.length < 2 then some 2
    else
      let number := (operand ops 1).toNat
      if 1 ≤ number ∧ number ≤ 6 ∧ ops.length ≠ 2 + 2 * number then some (2 + 2 * number) else none
  | code => if ops.length = cmdLength code then none else some (cmdLength code)

/-- R168, step 3: the command's own rule, on operand bytes that have passed the length test. -/
def runRule (via : Via) (carrier : Option Nat) (code : CmdCode) (ops : List Byte) (s : State) : Ruling :=
  let o := operand ops
  match code with
  | .ping => rulePing s
  | .readStatus => ruleReadStatus s
  | .readCounts => ruleReadCounts (o 0) s
  | .clearCounts => ruleClearCounts s
  | .setLine => ruleSetLine (o 0) (o 1) s
  | .assignStation => ruleAssignStation via (o 0) s
  | .unassign => ruleUnassign s
  | .softReset => ruleSoftReset via carrier s
  | .writeTag => ruleWriteTag (o 0) (o 1) (o 2) (o 3) (o 4) (o 5) (o 6) (o 7) (o 8) (o 9) s
  | .readTag => ruleReadTag (o 0) (o 1) s
  | .writeUnpack => ruleWriteUnpack (o 0) (o 1) (ops.drop 2) s
  | .readUnpack => ruleReadUnpack (o 0) (o 1) (o 2) s
  | .swapBanks => ruleSwapBanks s
  | .copyBank => ruleCopyBank s
  | .configCycle => ruleConfigCycle (o 0) (o 1) (o 2) (o 3) s
  | .configChannel => ruleConfigChannel (o 0) (o 1) (o 2) (o 3) (o 4) (o 5) (o 6) (o 7) s
  | .configGroup => ruleConfigGroup (o 0) (o 1) (o 2) (o 3) s
  | .groupStart => ruleGroupStart (o 0) s
  | .groupStop => ruleGroupStop (o 0) s
  | .groupResume => ruleGroupResume (o 0) s
  | .commit => ruleCommit (o 0) s
  | .readChannel => ruleReadChannel (o 0) (o 1) s
  | .configCapture => ruleConfigCapture (o 0) (o 1) (o 2) (o 3) s
  | .readCapture => ruleReadCapture (o 0) s
  | .configSampler => ruleConfigSampler (o 0) (o 1) (o 2) (o 3) (o 4) (o 5) (o 6) s
  | .setLimits => ruleSetLimits (o 0) (o 1) (o 2) (o 3) (o 4) (o 5) s
  | .sampleNow => ruleSampleNow s
  | .readSamples => ruleReadSamples (o 0) (o 1) s
  | .writeSource => ruleWriteSource (o 0) (o 1) (o 2) s
  | .writePubmap => ruleWritePubmap (o 0) (o 1) (o 2) s
  | .readPublish => ruleReadPublish (o 0) (o 1) (o 2) s
  | .eventRead => ruleEventRead s
  | .eventAck => ruleEventAck (o 0) s

/-- R168: an own command is decoded and executed. -/
def runOwn (carrier : Option Nat) (data : List Byte) (s : State) : Ruling :=
  match data with
  | [] => answer .badLength [] s
  | b :: ops =>
    match cmdOf b with
    | none => answer .badCode [] s
    | some code =>
      match lengthFault code ops with
      | some expected => answer .badLength [byteOf ops.length, byteOf expected] s
      | none => runRule .own carrier code ops s

/-- R170: the reply record that an own command writes. -/
def replyOf (seq : Seq) (data : List Byte) (r : Ruling) : ReplyRecord :=
  { result := some r.result, code := data.head?, seq := some seq, data := r.data }

/-- R168 and R170: an own command is executed and its reply record written. -/
def State.ownCommand (carrier : Option Nat) (seq : Seq) (data : List Byte) (s : State) : State :=
  let r := runOwn carrier data s
  { r.state with mgmt := { r.state.mgmt with reply := replyOf seq data r } }

/-- R169: a broadcast that this bridge executes, if it does. -/
def broadcastCode (data : List Byte) : Option CmdCode :=
  match data with
  | [] => none
  | b :: ops =>
    match cmdOf b with
    | none => none
    | some code => if cmdByBroadcast code ∧ lengthFault code ops = none then some code else none

/-- R169: a broadcast is executed, its result dropped, or it is rejected and counted. -/
def State.broadcastCommand (carrier : Option Nat) (data : List Byte) (s : State) : State :=
  match broadcastCode data with
  | some code => (runRule .broadcast carrier code data.tail s).state
  | none => { s with mgmt := { s.mgmt with rejects := satInc s.mgmt.rejects } }

/-- R166: the sequence test of a COMMAND frame for this bridge, and what follows it. -/
def State.takeCommand (via : Via) (carrier : Option Nat) (seq : Seq) (data : List Byte) (s : State) :
    State :=
  if s.mgmt.lastSeq = some seq then s.countRepeat
  else
    let t := { s with mgmt := { s.mgmt with lastSeq := some seq } }
    match via with
    | .own => t.ownCommand carrier seq data
    | .broadcast => t.broadcastCommand carrier data

/-! ### Command frames as rows of the table (log 8) -/

/-- The UP port is free for a frame that has just passed: no frame in flight and no low. -/
def State.lineFree (s : State) : Bool := decide (s.fc.state = .done) && decide (s.up.rx = .idle)

/-- R165 and R173: the check-byte moment of a COMMAND frame that passes, seen from the management unit.
A frame to the bridge's own station cannot meet an unassigned bridge: there it is a frame for another,
and only passes. The line side of a frame is CHECK_BYTE's (log 8). -/
def command (dt : Time) (via : Via) (seq : Seq) (code : CmdCode) (ops : List Byte) (s : State) : Out :=
  live dt s fun s =>
    if s.lineFree then
      if via = .own ∧ ¬s.assigned then .next s.pass
      else .next (s.pass.takeCommand via none seq (cmdByte code :: ops))
    else .refused .outOfPlace

end Sys2Proof.Machine
end

