-- ==== Sys2Proof/Machine/Receiver.lean ====
section
/-!
DEFINITION. What the UP port does with each byte of a frame (R9 to R12, R19 to R23), with the response it
gives (R33, R155, R172), and the local effect of a pass (R20, R43, R48, R49).
-/

namespace Sys2Proof.Machine

/-- A byte of the head-sent part, or of a response that the bridge listens to, completes on UP. Its stop
cell reads high, so no low is being timed then. -/
def receive (dt : Time) (st : FcState) (s : State) (f : State → Out) : Out :=
  live dt s fun s =>
    if s.fc.state ≠ st ∨ s.up.rx = .stuck then .refused .outOfPlace
    else if s.byteLate then .refused .overdue
    else match s.byteRefusal s.fc.pace with
      | some r => .refused r
      | none => f (s.setRx .idle)

/-! ### The address byte (R21) -/

/-- R21: the forward field of a MGMT frame. -/
def State.mgmtForward (function : MgmtFunction) (station : Fin 16) (s : State) : FrameForward :=
  if function = .command ∧ station = 15 then FrameForward.pending
  else if s.mgmt.station.any (fun n => n.val == station.val) then FrameForward.none
  else FrameForward.down

/-- R21 and R45: the address byte is recorded and handed off. -/
def State.openFrame (b : Byte) (head : Head) (copy : Option EntryCopy) (forward : FrameForward)
    (noLocal : Bool) (s : State) : State :=
  { s with fc := { s.fc with
      state := .length, head := some head, addr := some b, copy := copy, forward := some forward,
      relay := if forward = FrameForward.down then some .live else none, sum := b, noLocal := noLocal,
      ref := s.now } }.joinDown b .opening

/-- R45 and R46: the lookup of a frame that carries a tag, and the kind mismatch. -/
def State.openTagged (b : Byte) (kind : TagKind) (tag : Tag) (s : State) : State :=
  let copy := s.tags.lookup tag
  let fits := kindMatches kind copy.entry.role
  (if fits then s else s.countMismatch).openFrame b (.tagged kind tag) (some copy)
    copy.entry.forward.decision (!fits)

/-- R21: the address byte of a frame; R9: an undefined one ends it with FORMAT. -/
def State.takeAddress (b : Byte) (s : State) : State :=
  match headOf b with
  | none => s.lineError .format
  | some (.tagged kind tag) => s.openTagged b kind tag
  | some (.mgmt function station) =>
    s.openFrame b (.mgmt function station) none (s.mgmtForward function station) false

/-! ### The length byte (R10, R21, R47, R154, R172) -/

/-- R10: does a length byte end the frame with LENGTH? -/
def lengthBad (head : Option Head) (b : Byte) : Bool :=
  decide (16 < countOf b) || match head with
    | some (.tagged .mark _) => decide (countOf b ≠ 2)
    | _ => false

/-- R47: a length mismatch of a PUT on a CONSUME tag. -/
def lengthMismatch (head : Option Head) (copy : Option EntryCopy) (count : Nat) : Bool :=
  match head, copy with
  | some (.tagged .put _), some c =>
    decide (c.entry.role = .consume) && match c.entry.expected with
      | .any => true
      | .exactly n => decide (n.val ≠ count)
  | _, _ => false

/-- R8: are the frame's data and check bytes a response? -/
def Head.hasResponse : Head → Bool
  | .tagged .get _ => true
  | .mgmt .reply _ => true
  | .tagged .put _ => false
  | .tagged .mark _ => false
  | .mgmt .command _ => false

/-- R172: the reply bytes, cut or padded to a count. -/
def replyBytes (r : ReplyRecord) (count : Nat) : List Byte :=
  ((replyRecordBytes r).take count) ++ List.replicate (count - (replyRecordBytes r).length) 0

/-- R33: the bytes of the bridge's own response, its check byte last. -/
def FrameContext.response (fc : FrameContext) (data : List Byte) : List Byte :=
  data ++ [checkOf (data.foldl (· + ·) fc.sum)]

/-- R33: the bridge answers from its own records. -/
def State.respond (data : List Byte) (s : State) : State :=
  { s with
    fc := { s.fc with state := .responding, answer := some .own },
    up := { s.up with resp := s.fc.response data } }

/-- The state that follows the length byte where the bridge receives the data and check bytes (R19). -/
def afterLength (count : Nat) : FcState := if count = 0 then .check else .data

/-- R21: the bridge listens to the response of another party. -/
def State.listenUp (count : Nat) (s : State) : State :=
  { s with fc := { s.fc with state := afterLength count, answer := some .listen } }

/-- R154: a size mismatch. -/
def State.sizeMismatch (s : State) : State :=
  { s.countMismatch with fc := { s.fc with noLocal := true } }

/-- R21: RELAY where the relay is still LIVE, LISTEN in every other case. -/
def State.relayOrListen (count : Nat) (s : State) : State :=
  if s.fc.forward = some .down ∧ s.fc.relay = some .live then
    { s with fc := { s.fc with state := .relayResponse, answer := some .relay } }
  else s.listenUp count

/-- R21, R154, R155, R172: the answer of a GET or REPLY is settled. -/
def State.settleAnswer (head : Head) (count : Nat) (s : State) : State :=
  match head, s.fc.copy with
  | .mgmt .reply _, _ =>
    if s.fc.forward = some .none then s.respond (replyBytes s.mgmt.reply count)
    else s.relayOrListen count
  | _, some copy =>
    if copy.entry.role = .publish then
      let b := copy.entry.buffer
      if mapSize s.publish.source s.publish.maps[b] = count then
        (s.buildSnapshot b).respond (s.snapshotBytes b)
      else s.sizeMismatch.listenUp count
    else s.relayOrListen count
  | _, none => s.relayOrListen count

/-- R22: the forward field of a held broadcast is settled as DOWN, and the held bytes join the queue. -/
def State.releaseHeld (s : State) : State :=
  { s with fc := { s.fc with forward := some .down, relay := some .live } }.joinDown (s.fc.addr.getD 0)
    .opening |>.joinDown (s.fc.lengthByte.getD 0) .body

/-- R10, R21, R47: a length byte that does not end its frame. -/
def State.recordLength (b : Byte) (head : Option Head) (s : State) : State :=
  let mismatch := lengthMismatch head s.fc.copy (countOf b)
  let t := if mismatch then s.countMismatch else s
  { t with fc := { t.fc with
      lengthByte := some b, count := finOf 17 (byteOf (countOf b)), seq := some (seqOf b),
      sum := t.fc.sum + b, noLocal := t.fc.noLocal || mismatch, ref := t.now } }

/-- R21 to R23: the length byte of a frame. A count that ends the frame (R10) is tested first: a PUT of count 17
to 31 on a CONSUME tag counts LENGTH alone, and no MISMATCH (R47; DESIGN CHOICE, log 36). -/
def State.takeLength (b : Byte) (s : State) : State :=
  let head := s.fc.head
  let count := countOf b
  if lengthBad head b then s.lineError .length
  else
    let t := s.recordLength b head
    match head with
    | none => t
    | some h =>
      if h.hasResponse then (t.joinDown b .turn).settleAnswer h count
      else
        let u := if t.fc.forward = some .pending then (if count = 0 then t.releaseHeld else t)
          else t.joinDown b .body
        { u with fc := { u.fc with state := afterLength count } }

/-! ### Data bytes (R11, R22, R23) -/

/-- R11: does a data byte end a MARK with FORMAT? -/
def groupMaskBad (head : Option Head) (index : Nat) (b : Byte) : Bool :=
  match head with
  | some (.tagged .mark _) => decide (index = 1) && !maskOk b
  | _ => false

/-- R22: data byte 0 settles the forward field of a held broadcast. -/
def State.settlePending (b : Byte) (s : State) : State :=
  if ¬s.assigned ∧ b = cmdByte .assignStation then
    { s with fc := { s.fc with forward := some .none } }
  else s.releaseHeld

/-- R22 and R23: a data byte of a frame. -/
def State.takeData (b : Byte) (s : State) : State :=
  if groupMaskBad s.fc.head s.fc.data.length b then s.lineError .format
  else
    let settled := if s.fc.forward = some .pending then s.settlePending b else s
    let t : State := { settled with fc := { settled.fc with
        data := settled.fc.data ++ [b], sum := settled.fc.sum + b, ref := settled.now } }
    let u := t.joinDown b .body
    if t.fc.data.length < (t.fc.count.getD 0).val then u
    else { u with fc := { u.fc with state := .check } }

/-! ### The check byte (R12, R20, R23) -/

/-- R43, R48, R49, R72: the local effect of a frame that carries a tag, where it matches its entry. -/
def State.tagEffect (kind : TagKind) (tag : Tag) (copy : EntryCopy) (s : State) : State :=
  let seq := s.fc.seq.getD 0
  match copy.entry.role, kind with
  | .consume, .put =>
    if s.tags.runtime[tag].lastSeq = some seq then s.countRepeat
    else (s.acceptPut tag seq copy.generation).applyPut tag s.fc.data copy
  | .relay, _ => s.acceptFrame tag copy.generation
  | .block, _ => s.acceptFrame tag copy.generation
  | _, _ => s

/-- R165: a COMMAND frame that passes is own, broadcast or for another. -/
def State.commandEffect (station : Fin 16) (s : State) : State :=
  let seq := s.fc.seq.getD 0
  if station = 15 then s.takeCommand .broadcast (some s.fc.id) seq s.fc.data
  else if s.fc.forward = some .none then s.takeCommand .own (some s.fc.id) seq s.fc.data
  else s

/-- R20: the local effect of a frame that has passed its check, but for an accepted MARK. -/
def State.localEffect (s : State) : State :=
  if s.fc.noLocal then s
  else match s.fc.head, s.fc.copy with
    | some (.tagged kind tag), some copy => s.tagEffect kind tag copy
    | some (.tagged _ _), none => s
    | some (.mgmt .command station), _ => s.commandEffect station
    | some (.mgmt .reply _), _ => s
    | none, _ => s

/-- R72: the tag and the entry copy of a frame that is a MARK on a MARKER entry and acts here. -/
def State.acceptedMark (s : State) : Option (Tag × EntryCopy) :=
  if s.fc.noLocal then none
  else match s.fc.head, s.fc.copy with
    | some (.tagged .mark tag), some copy => if copy.entry.role = .marker then some (tag, copy) else none
    | _, _ => none

/-- R20, R72: the effect of a frame that has passed its check. `posts` are the ports' own entries of this
moment: those of an accepted MARK meet the entries of the restart it makes (R39, log 10); before any
other effect they have joined the queue (R173). -/
def State.passEffect (posts : List Posting) (s : State) : State :=
  match s.acceptedMark with
  | some (tag, copy) =>
    (s.acceptFrame tag copy.generation).handleMark (s.fc.data.getD 0 0) (maskOf (s.fc.data.getD 1 0))
      copy.entry posts
  | none => (s.postAll posts).localEffect

/-- R12, R20, R23, R24: the check byte of a frame that the bridge receives. Its RELAY_OVERRUN and its
LINE_BACK join the queue in either order (R183, log 10). It joins the relay queue before the local effect; R23
gives no order, and a broadcast SOFT_RESET that meets 32 entries could drop others first (DESIGN CHOICE, log
34). -/
def State.takeCheck (b : Byte) (s : State) : State :=
  if b = checkOf s.fc.sum then
    ((s.joined b .ending).finish .complete).passed.drawn.passEffect
      (s.eitherOrder s.overrunPostings s.backPostings)
  else s.lineError .check

/-! ### Responses (R33, R36, R158, R159) -/

/-- R158, R49: what the delivery of a response means at this bridge. -/
def State.deliveredEffect (own : Bool) (s : State) : State :=
  match s.fc.head, s.fc.copy with
  | some (.tagged .get tag), some copy =>
    if s.fc.noLocal then s
    else if own then (s.served copy.entry.buffer).acceptFrame tag copy.generation
    else s.acceptFrame tag copy.generation
  | _, _ => s

/-- R20 and R33: a response is delivered and its frame passes. The stop cell is high, so the wire is
released already. -/
def State.deliver (s : State) : State :=
  let own := decide (s.fc.state = .responding)
  let sent := s.finish .sent
  { sent with up := { sent.up with tx := none, resp := [] } }.pass.deliveredEffect own

/-- R159: a publish response is cut. -/
def State.cutServe (s : State) : State :=
  match s.fc.head, s.fc.copy with
  | some (.tagged .get _), some copy => s.serveCut copy.entry.buffer
  | _, _ => s

/-- R36: a conflict ends the response. -/
def State.conflict (s : State) : State :=
  let cut := if s.fc.state = .responding then s.cutServe else s
  let ended := (cut.finish .conflict).countUp fun c => { c with conflict := satInc c.conflict }
  let t := { ended with up := { ended.up with
      tx := none, resp := [], rx := .lowSeen ended.lowNow } }.post
        { code := .upConflict, subject := .port .up, detail := addrDetail s.fc.addr }
  if s.fc.state = .relayResponse then t.abandon s.fc.id else t

end Sys2Proof.Machine
end

