-- ==== Sys2Proof/Machine/LineRows.lean ====
section
/-!
DEFINITION. The meanings of the line rows: the UP receiver, the UP transmitter, the DOWN port and the
quiet timer (chapters 1 and 2). A row that cannot occur in a state is refused by name (log 3).
-/

namespace Sys2Proof.Machine

/-- An event that has a place and a moment: refused where the unit is not there, or before it is due. -/
def event (dt : Time) (s : State) (inPlace due : State → Bool) (f : State → State) : Out :=
  live dt s fun s =>
    if inPlace s then (if due s then .next (f s) else .refused .notDue) else .refused .outOfPlace

/-- An event that depends on where the unit stands, but on no moment. -/
def happens (dt : Time) (s : State) (inPlace : State → Bool) (f : State → State) : Out :=
  live dt s fun s => if inPlace s then .next (f s) else .refused .outOfPlace

/-! ### Lows on UP (R5, R17, R18, R19, R25) -/

/-- R17: the receiver can meet a falling edge. Where the bridge is the responder that edge is
UP_CONFLICT's; inside a frame each falling edge begins a new low (1.3, log 17). -/
def State.lowCanBegin (s : State) : Bool :=
  match s.up.rx with
  | .idle => decide (s.fc.state ≠ .responding) && decide (s.fc.state ≠ .relayResponse)
  | .lowSeen _ => s.fc.state.receiving
  | .stuck => false

/-- R5, R6: a falling edge inside a frame is one more of the byte under way, or a start edge where there is
none. -/
def State.startSeen (s : State) : StartEdge :=
  match s.startNow with
  | some b => { b with falls := b.falls ++ [s.now] }
  | none => { edge := s.now, read := false, falls := [] }

/-- R5, R17: a falling edge is timed, and inside a frame it belongs to a byte. -/
def State.seeLow (s : State) : State :=
  { s with up := { s.up with
      rx := .lowSeen s.lowNow, start := if s.fc.state.receiving then some s.startSeen else none } }

/-- R5, R7, R13: the byte under way in a frame has ended, or the frame has, before this moment. -/
def State.byteOver (s : State) : Bool := s.fc.state.receiving && s.startNow.any fun b => !s.byteGoesOn b

/-- UP_LOW_SEEN (R5, R6, R17). -/
def execUpLowSeen (dt : Time) (s : State) : Out :=
  live dt s fun s =>
    if !s.lowCanBegin then .refused .outOfPlace
    else if s.byteOver then .refused .overdue
    else .next s.seeLow

/-- R17: a short low on UP ends and the receiver returns to IDLE. Between frames the low is stray and is
counted; inside a frame it is a part of a byte, or a false start, and only ends (R5, log 17). -/
def State.shortLowEnds (s : State) : State :=
  if s.inFlight then { s with up := { s.up with rx := .idle, start := s.startNow } }
  else (s.setRx .idle).countUp fun c => { c with stray := satInc c.stray }

/-- The low being timed on UP is short, and it has a place: between frames, or in a frame that the bridge
follows as a receiver. -/
def State.shortLow (s : State) : Bool :=
  (!s.inFlight || s.fc.state.receiving) && s.upLow.any fun low => low.isShort s.now

/-- R5: in a frame, the low being timed covers the stop cell of the byte under way. -/
def State.lowOnStop (s : State) : Bool :=
  s.fc.state.receiving && s.startNow.any fun b => s.upLow.any fun low => s.stopCovered b low.since

/-- STRAY_LOW (R5, R17). A short low over a stop cell is FRAMING_ERROR's. -/
def execStrayLow (dt : Time) (s : State) : Out :=
  live dt s fun s =>
    if !s.shortLow then .refused .outOfPlace
    else if s.byteOver || s.lowOnStop then .refused .overdue
    else .next s.shortLowEnds

/-- R19: a new frame context in state RATE, with the next frame id (log 15). -/
def State.openContext (s : State) : State :=
  { s with
    fc := { FrameContext.reset with state := .rate, ref := s.now, id := s.frames + 1 },
    frames := s.frames + 1 }

/-- A low of break length is being timed on UP, and no frame is in flight. -/
def State.upBreakLow (s : State) : Bool := !s.inFlight && s.upLow.any fun low => low.isBreak s.now

/-- UP_BREAK (R17, R19). -/
def execUpBreak (dt : Time) (s : State) : Out :=
  happens dt s State.upBreakLow fun s => (s.setRx .idle).openContext

/-- R25: the frame is abandoned by break. -/
def State.abort (s : State) : State :=
  ((s.finish .aborted).post
    { code := .frameAbort, subject := .port .up, detail := addrDetail s.fc.addr }).abandonLive

/-- R5, R7, R13, R14, R15: a byte that a low of break length can cut: its start edge came in time, its rate
holds, and the low covers its stop cell. Otherwise the frame has ended before that low reached 13 Tbit. -/
def State.byteCut (b : StartEdge) (low : LowTimer) (s : State) : Bool :=
  s.edgeInTime b.edge && s.rateHolds b && s.stopCovered b low.since

/-- FRAME_ABORT (R3, R15, R25). -/
def execFrameAbort (dt : Time) (s : State) : Out :=
  live dt s fun s =>
    match s.upLow with
    | some low =>
      if !s.fc.state.receiving then .refused .outOfPlace
      else if low.isShort s.now then .refused .notDue
      else if s.startNow.any fun b => !s.byteCut b low then .refused .overdue
      else .next s.abort
    | none => .refused .outOfPlace

/-- R18: the posting of a stuck line. -/
def stuckPosting (port : Port) : Posting := { code := .lineStuck, subject := .port port, detail := .none }

/-- R18 and R32: the DOWN port enters STUCK, and drops the frame whose OPEN entry stands at the head. -/
def State.downStuck (s : State) : State :=
  ({ s with down := { s.down with state := .stuck, low := none } }.post (stuckPosting .down)).stuckDrop

/-- A port on which a low is being timed that no frame is in flight for. -/
def State.lowTimed (port : Port) (s : State) : Option LowTimer :=
  match port with
  | .up => if s.inFlight then none else s.upLow
  | .down => s.down.low

/-- LINE_STUCK (R18). -/
def execLineStuck (dt : Time) (port : Port) (s : State) : Out :=
  event dt s (fun s => (s.lowTimed port).isSome)
    (fun s => (s.lowTimed port).any fun low => low.isStuck s.now)
    fun s => match port with
      | .up => (s.setRx .stuck).post (stuckPosting .up)
      | .down => s.downStuck

/-- A port in its STUCK state. -/
def State.isStuck (port : Port) (s : State) : Bool :=
  match port with
  | .up => decide (s.up.rx = .stuck)
  | .down => decide (s.down.state = .stuck)

/-- STUCK_END (R18). -/
def execStuckEnd (dt : Time) (port : Port) (s : State) : Out :=
  happens dt s (State.isStuck port) fun s => match port with
    | .up => s.setRx .idle
    | .down => { s with down := { s.down with state := .idle } }

/-! ### The bytes of a frame (R7, R20 to R23) -/

/-- R7: the low that an early fourth falling edge begins: the one that a row has shown, or one that begins at
this moment. -/
def State.earlyLow (s : State) : LowTimer :=
  if (s.startNow.bind StartEdge.span).isSome then s.upLow.getD s.lowNow else s.lowNow

/-- R7: the rate byte. An early fourth edge ends the frame at that edge, with the wire low (log 19). -/
def State.takeRate (span : Time) (value : Byte) (s : State) : State :=
  if spanEarly s.nominal span then (s.setRx (.lowSeen s.earlyLow)).lineError .rate
  else if spanLate s.nominal span then (s.setRx .idle).lineError .rate
  else if value ≠ 0xAA then (s.setRx .idle).lineError .format
  else { s.setRx .idle with fc := { s.fc with state := .address, span := some span, ref := s.now } }

/-- R13: the rate byte's start edge came later than 3 nominal Tbit after the break. The moment of the row is
the fourth edge where that came early, 7.84 nominal Tbit after the start edge where it came late, and
otherwise the stop-cell centre, 9.5 measured Tbit after the start edge (R7). -/
def State.rateByteLate (span : Time) (s : State) : Bool :=
  let passed := s.now - s.fc.ref
  if spanEarly s.nominal span then decide (3 * s.nominal + span < passed)
  else if spanLate s.nominal span then decide (1084 * s.nominal < 100 * passed)
  else limitPassed 14 (42 * s.nominal + 19 * span) passed

/-- R6, R7: where rows have shown falling edges of the rate byte, its span is the one to the fourth of them. An
early fourth edge may be this moment itself, and a late one has not come. -/
def State.spanFits (span : Time) (s : State) : Bool :=
  s.startNow.all fun b => match b.span with
    | some shown => decide (shown = span)
    | none => spanLate s.nominal span ||
        (spanEarly s.nominal span && decide (b.falls.length = 2) && decide (b.edge + span = s.now))

/-- R5, R7: a rate byte whose start edge a row has shown cannot complete now. One whose fourth edge came late
ends 7.84 nominal Tbit after its start edge, with its stop cell unread. -/
def State.rateByteRefusal (span : Time) (s : State) : Option Refusal :=
  if spanEarly s.nominal span then
    if s.startNow.all fun b => s.edgeInTime b.edge then none else some .overdue
  else if spanLate s.nominal span then s.startNow.bind fun b =>
    if !s.edgeInTime b.edge then some .overdue
    else if 100 * (s.now - b.edge) < 784 * s.nominal then some .notDue
    else none
  else s.byteRefusal span

/-- RATE_BYTE (R6, R7). -/
def execRateByte (dt : Time) (span : Time) (value : Byte) (s : State) : Out :=
  live dt s fun s =>
    if s.fc.state ≠ .rate ∨ s.up.rx = .stuck ∨ s.spanFits span = false then .refused .outOfPlace
    else if s.rateByteLate span then .refused .overdue
    else match s.rateByteRefusal span with
      | some r => .refused r
      | none => .next (s.takeRate span value)

/-- R3: the low that stands on UP and has lasted for `length`: the one being timed, or one that no row has
shown yet. -/
def State.upLowFor (length : Time) (s : State) : LowTimer := s.upLow.getD (s.lowFor length)

/-- A low of that length can stand on UP: where one is being timed it is that one, and otherwise it began
within the running part of the frame. -/
def State.upLowFits (length : Time) (s : State) : Bool :=
  decide ((s.upLowFor length).since + length = s.now) && decide (length ≤ s.now - s.fc.ref)

/-- The UP receiver at a moment that ends a frame by the clock: a wire that is low then is being timed from
its falling edge, and otherwise the receiver is IDLE (logs 17 and 19). -/
def State.wireAtEnd (low : Option Time) (s : State) : State :=
  s.setRx (match low with
    | some length => .lowSeen (s.upLowFor length)
    | none => .idle)

/-- R7: no fourth edge within 7.84 nominal Tbit of the opening edge. -/
def State.rateLimit (low : Option Time) (s : State) : State := (s.wireAtEnd low).lineError .rate

/-- A start edge that a row has shown is the one that came `elapsed` ago. -/
def State.startFits (elapsed : Time) (s : State) : Bool :=
  s.startNow.all fun b => decide (b.edge + elapsed = s.now)

/-- RATE_LIMIT (R7, R13): `wait.elapsed` runs from the opening edge, which came after the break and within the 3
nominal Tbit of its window. -/
def execRateLimit (dt : Time) (wait : RateWait) (s : State) : Out :=
  live dt s fun s =>
    let passed := s.now - s.fc.ref
    if s.fc.state ≠ .rate ∨ s.up.rx = .stuck ∨ passed < wait.elapsed ∨ s.startFits wait.elapsed = false
      ∨ (s.startNow.bind StartEdge.span).isSome = true
      ∨ wait.low.any (fun length => !s.upLowFits length || decide (wait.elapsed < length)) then
      .refused .outOfPlace
    else if 100 * wait.elapsed < 784 * s.nominal then .refused .notDue
    else if 3 * s.nominal + wait.elapsed < passed then .refused .overdue
    else .next (s.rateLimit wait.low)

/-- ADDRESS_BYTE (R21). -/
def execAddressByte (dt : Time) (value : Byte) (s : State) : Out :=
  receive dt .address s fun s => .next (s.takeAddress value)

/-- LENGTH_BYTE (R21). -/
def execLengthByte (dt : Time) (value : Byte) (s : State) : Out :=
  receive dt .length s fun s => .next (s.takeLength value)

/-- DATA_BYTE (R23). -/
def execDataByte (dt : Time) (value : Byte) (s : State) : Out :=
  receive dt .data s fun s => .next (s.takeData value)

/-- CHECK_BYTE (R20). -/
def execCheckByte (dt : Time) (value : Byte) (s : State) : Out :=
  receive dt .check s fun s => .next (s.takeCheck value)

/-! ### Ends of a frame (R5, R13, R14) -/

/-- The bridge waits for a byte of a frame, with a wire that is not stuck. -/
def State.awaitsByte (s : State) : Bool := s.fc.state.receiving && decide (s.up.rx ≠ .stuck)

/-- R5, R7: a hundred times the least and the most that seven Tbit of the byte under way can be: 6.16 and 7.84
nominal Tbit for a rate byte whose fourth falling edge no row has shown. -/
def State.sevenRange (s : State) : Time × Time :=
  match s.startNow.bind s.sevenTbit, s.fc.state with
  | some seven, _ => (100 * seven, 100 * seven)
  | none, .rate => (616 * s.nominal, 784 * s.nominal)
  | none, _ => (100 * s.fc.pace, 100 * s.fc.pace)

/-- R5, R7: the low that ends at this moment can cover the byte's stop cell: it began by the stop-cell centre,
and that of a rate byte at its fourth falling edge or later. -/
def State.stopLowBegins (low : StopLow) (s : State) : Bool :=
  let began := low.elapsed - low.length
  decide (1400 * began ≤ 19 * s.sevenRange.2)
    && (decide (s.fc.state ≠ .rate) || decide (s.sevenRange.1 ≤ 100 * began))

/-- A byte whose stop cell a short low covers can end now: the low is the one that stands on the wire, is no
break, and began after the byte's start edge and by its stop-cell centre (R3, R5). -/
def State.stopLowFits (low : StopLow) (s : State) : Bool :=
  s.upLowFits low.length && (s.upLowFor low.length).isShort s.now && decide (low.length ≤ low.elapsed)
    && decide (low.elapsed ≤ s.now - s.fc.ref) && s.startFits low.elapsed && s.stopLowBegins low

/-- FRAMING_ERROR (R5, R7, R13, R14): the low that covers the stop cell is short, the byte's start edge came
within its window, and a rate byte has passed the rate step. -/
def execFramingError (low : StopLow) (s : State) : Out :=
  live low.dt s fun s =>
    if !(s.awaitsByte && s.stopLowFits low) then .refused .outOfPlace
    else if 1400 * low.elapsed < 19 * s.sevenRange.1 then .refused .notDue
    else if !s.edgeInTime (s.now - low.elapsed) || s.startNow.any fun b => !s.rateHolds b then
      .refused .overdue
    else .next ((s.setRx .idle).lineError .framing)

/-- R13, R14: the window has failed: its limit has passed, no start edge stands that came in time, and a low
that stands on the wire now began after the limit. -/
def State.windowFailed (low : Option Time) (s : State) : Bool :=
  decide (s.window2 ≤ 2 * (s.now - s.fc.ref))
    && !(s.startNow.any fun b => s.edgeInTime b.edge)
    && !(low.any fun length => s.edgeInTime (s.now - length))

/-- R13: the frame ends with a GAP error. -/
def State.gapError (low : Option Time) (s : State) : State := (s.wireAtEnd low).lineError .gap

/-- R14: the frame ends unanswered. -/
def State.goesUnanswered (low : Option Time) (s : State) : State := (s.wireAtEnd low).finish .unanswered

/-- A byte is awaited on UP, and the low that the row names can stand on the wire. -/
def State.windowRuns (low : Option Time) (s : State) : Bool := s.awaitsByte && low.all s.upLowFits

/-- GAP_ERROR (R5, R13, R14). The wait for a response's first byte is UNANSWERED's. -/
def execGapError (window : WindowEnd) (s : State) : Out :=
  event window.dt s (fun s => s.windowRuns window.low && !s.fc.awaitsResponse)
    (State.windowFailed window.low) (State.gapError window.low)

/-- UNANSWERED (R5, R14). -/
def execUnanswered (window : WindowEnd) (s : State) : Out :=
  event window.dt s (fun s => s.windowRuns window.low && s.fc.awaitsResponse)
    (State.windowFailed window.low) (State.goesUnanswered window.low)

/-! ### Responses on UP (R33, R35, R36) -/

/-- R33: the next byte of the bridge's own response; the last one is the check byte. -/
def State.sendOwn (s : State) : State :=
  match s.up.resp with
  | [] => s
  | b :: rest =>
    { s with up := { s.up with resp := rest } }.sendUp b (if rest.isEmpty then .ending else .body)

/-- OWN_RESPONSE_START (R33): 2 measured Tbit after the end of the length byte. -/
def execOwnResponseStart (dt : Time) (s : State) : Out :=
  event dt s
    (fun s => decide (s.fc.state = .responding) && s.up.tx.isNone && !s.up.resp.isEmpty)
    (fun s => decide (5 * s.fc.pace ≤ 14 * (s.now - s.fc.ref))) State.sendOwn

/-- The byte in progress on UP is the check byte of a response that passes when it is delivered. -/
def State.deliverable (s : State) : Bool :=
  (s.up.tx.any fun b => decide (b.marker = .ending)) &&
    (decide (s.fc.state = .responding) ||
      (decide (s.fc.state = .relayResponse) && decide (s.fc.relayAgrees = some true)))

/-- The byte in progress on UP has lasted a number of half Tbit. -/
def State.upByteLasted (halves : Nat) (s : State) : Bool :=
  s.up.tx.any fun b => decide (halves * b.span ≤ 14 * (s.now - b.since))

/-- R35: the relayed response ends without a pass. -/
def State.relayFailed (s : State) : State :=
  { s.finish .relayFailed with up := { s.up with tx := none } }

/-- R33 and R35: what follows a byte on UP. After a frame's end the byte was only completed (R28). -/
def State.afterUpByte (s : State) : State :=
  match s.fc.state with
  | .responding => s.sendOwn
  | .relayResponse =>
    if (s.up.tx.any fun b => decide (b.marker = .ending)) || (s.relay.isEmpty && s.fc.relayEnded) then
      s.relayFailed
    else s.relayNext
  | _ => { s with up := { s.up with tx := none } }

/-- UP_BYTE_SENT (R33, R35). The end of a delivered check byte is RESPONSE_DELIVERED's. -/
def execUpByteSent (dt : Time) (s : State) : Out :=
  live dt s fun s =>
    if s.up.tx.isNone then .refused .outOfPlace
    else if !s.upByteLasted 20 then .refused .notDue
    else if s.deliverable then .refused .overdue
    else .next s.afterUpByte

/-- RESPONSE_DELIVERED (R20, R33): the stop-cell centre of the check byte. -/
def execResponseDelivered (dt : Time) (s : State) : Out :=
  event dt s State.deliverable (State.upByteLasted 19) State.deliver

/-- UP_CONFLICT (R36). R36 takes every low while the context is in RESPONDING, which it enters at the length
byte's stop-cell centre; R33 counts the UP port as the responder from that byte's end. In the half Tbit
between them the model takes R36 (DESIGN CHOICE, log 35). -/
def execUpConflict (dt : Time) (s : State) : Out :=
  happens dt s (fun s => decide (s.fc.state = .responding) || decide (s.fc.state = .relayResponse))
    State.conflict

/-! ### The DOWN transmitter (R29, R30, R31) -/

/-- R29: an OPEN entry stands at the queue head, the port is IDLE and the wire is high. -/
def State.canRegenerate (s : State) : Bool :=
  decide (s.down.state = .idle) && s.down.low.isNone
    && s.relay.head?.any fun e => decide (e.marker = .opening)

/-- R29: the regenerated break begins. -/
def State.regenerate (s : State) : State :=
  match s.relay with
  | [] => s
  | e :: _ =>
    { s with down := { s.down with
        state := .sendingBreak, cur := none, since := s.now, tbit := s.nominal, frame := e.frame,
        addr := e.value, abandoned := false, heardFrom := none } }

/-- REGENERATION_START (R29). -/
def execRegenerationStart (dt : Time) (s : State) : Out := happens dt s State.canRegenerate State.regenerate

/-- The DOWN port is in one of its transmit states. -/
def State.downIs (st : DownState) (s : State) : Bool := decide (s.down.state = st)

/-- The element in progress on DOWN has lasted a number of the frame's DOWN Tbit. -/
def State.downLasted (n : Nat) (s : State) : Bool := decide (n * s.down.tbit ≤ s.now - s.down.since)

/-- The DOWN port goes to IDLE. -/
def DownPort.toIdle (d : DownPort) : DownPort := { d with state := .idle, cur := none, abandoned := false }

/-- R28: an element of an abandoned frame is complete, so the frame ends there; otherwise it goes on. -/
def State.downThen (next : State → State) (s : State) : State :=
  if s.down.abandoned then { s with down := s.down.toIdle } else next s

/-- DOWN_BREAK_END (R29): 14 nominal Tbit. -/
def execDownBreakEnd (dt : Time) (s : State) : Out :=
  event dt s (State.downIs .sendingBreak) (State.downLasted 14)
    (State.downThen fun s => { s with down := { s.down with state := .delimiter, since := s.now } })

/-- DELIMITER_END (R29): 2 nominal Tbit. -/
def execDelimiterEnd (dt : Time) (s : State) : Out :=
  event dt s (State.downIs .delimiter) (State.downLasted 2)
    fun s => { s with down := { s.down with state := .rate, since := s.now } }

/-- R34: the port listens for a response; the sum starts with the frame's address and length bytes. -/
def State.startListen (lengthByte : Byte) (s : State) : State :=
  { s with down := { s.down with
      state := .listen, cur := none, since := s.now, respLeft := countOf lengthByte,
      respSum := s.down.addr + lengthByte } }

/-- R30: the frame is complete on DOWN and is counted. -/
def State.downComplete (s : State) : State :=
  { s with down := s.down.toIdle }.countDown fun c => { c with framesOk := satInc c.framesOk }

/-- R30: what follows the end of a byte's stop bit on DOWN. A frame given up in that byte ends there and is
not counted (R28, R41, log 18). -/
def State.afterDownByte (s : State) : State :=
  match s.down.cur with
  | none => s.downThen State.downNext
  | some e =>
    match e.marker with
    | .ending => s.downThen State.downComplete
    | .turn => s.downThen (State.startListen e.value)
    | .opening => s.downThen State.downNext
    | .body => s.downThen State.downNext

/-- A byte is in progress on DOWN: the rate byte, or a queued one. -/
def State.downSending (s : State) : Bool :=
  s.downIs .rate || (s.downIs .sending && s.down.cur.isSome)

/-- DOWN_BYTE_SENT (R30): ten Tbit. -/
def execDownByteSent (dt : Time) (s : State) : Out :=
  event dt s State.downSending (State.downLasted 10) State.afterDownByte

/-- The port compares the wire with what it releases (R31). -/
def State.downWatches (s : State) : Bool := s.downIs .delimiter || s.downIs .rate || s.downIs .sending

/-- R31: a conflict on DOWN. The foreign low is timed from this moment, at which the port finds the wire low
and releases it. Where that low began while the port itself drove the wire low, the manual gives no
start for it on DOWN (R17 gives the release for UP): this moment is the model's choice there (DESIGN
CHOICE, log 32). -/
def State.downConflict (s : State) : State :=
  let t := (s.dropEntries s.down.frame).dropRelay s.down.frame
  ({ t with down := { t.down with
      state := .foreignLow, cur := none, abandoned := false, low := some s.lowNow }
    }.countDownConflict).post
      { code := .downConflict, subject := .port .down, detail := .byte s.down.addr }

/-- DOWN_CONFLICT (R31). -/
def execDownConflict (dt : Time) (s : State) : Out := happens dt s State.downWatches State.downConflict

/-! ### Foreign lows (R32) -/

/-- A low of that length can stand at the IDLE port: the one that the port is timing already (log 16), one
that begins now, or one that was under way when a response was given up (R3, R28, log 33). -/
def State.foreignFits (length : Time) (s : State) : Bool :=
  match s.down.low with
  | some low => decide (low.since + length = s.now)
  | none => decide (length = 0) || s.down.heardFrom.any fun t => decide (t + length ≤ s.now)

/-- R3, R32: the port times the low from the falling edge at which it began. -/
def State.foreignBegins (length : Time) (s : State) : State :=
  { s with down := { s.down with
      state := .foreignLow, low := some (s.down.low.getD (s.lowFor length)), heardFrom := none } }

/-- FOREIGN_LOW (R3, R28, R32). A low that began under the break of an abandoned frame and still stands when
that break ends has no start that the manual gives for DOWN: it is reported as one that begins at that
moment, the release (DESIGN CHOICE, log 32). -/
def execForeignLow (low : LowMoment) (s : State) : Out :=
  happens low.dt s (fun s => s.downIs .idle && s.foreignFits low.length) (State.foreignBegins low.length)

/-- A foreign low ends: the port is IDLE with the wire high. -/
def State.foreignEnd (s : State) : State := { s with down := { s.down with state := .idle, low := none } }

/-- The foreign low being timed passes a test. -/
def State.foreignIs (test : LowTimer → Time → Bool) (s : State) : Bool :=
  (s.downIs .foreignLow || s.downIs .idle) && s.down.low.any fun low => test low s.now

/-- FOREIGN_LOW_IGNORED (R32). -/
def execForeignLowIgnored (dt : Time) (s : State) : Out :=
  happens dt s (State.foreignIs LowTimer.isShort) State.foreignEnd

/-- DOWN_BREAK (R32). -/
def execDownBreak (dt : Time) (s : State) : Out :=
  happens dt s (State.foreignIs LowTimer.isBreak) fun s =>
    (s.foreignEnd.countDown fun c => { c with foreign := satInc c.foreign }).post
      { code := .downBreak, subject := .port .down, detail := .none }

/-! ### Responses on DOWN (R34, R35) -/

/-- R34: a relayed frame whose response did not come ends UNANSWERED. -/
def State.unanswered (s : State) : State :=
  if s.fc.id = s.down.frame ∧ s.fc.state = .relayResponse then s.finish .unanswered else s

/-- R34: the relay has timed out. -/
def State.respTimeout (s : State) : State :=
  let t := { s.unanswered with down := s.down.toIdle }
  (t.countDown fun c => { c with timeout := satInc c.timeout }).post
    { code := .respTimeout, subject := .port .down, detail := .byte s.down.addr }

/-- RESP_TIMEOUT (R34). -/
def execRespTimeout (dt : Time) (s : State) : Out :=
  event dt s (State.downIs .listen) (State.downLasted 12) State.respTimeout

/-- The DOWN port waits for, or reads, a response (R34, R35). -/
def State.downReads (s : State) : Bool := s.downIs .listen || s.downIs .receive

/-- R34, R35: the latest moment for a response byte to complete has passed. -/
def State.responseLate (s : State) : Bool :=
  if s.downIs .listen then limitPassed 2 (43 * s.down.tbit) (s.now - s.down.since)
  else decide (13 * s.down.tbit < s.now - s.down.since)

/-- A response byte completes on DOWN; `last` says whether the check byte is the one expected. -/
def responseByte (dt : Time) (last : Bool) (s : State) (f : State → State) : Out :=
  live dt s fun s =>
    if !s.downReads || decide (s.down.respLeft = 0) != last then .refused .outOfPlace
    else if s.responseLate then .refused .overdue
    else .next (f s)

/-- R35: a response data byte joins the queue. -/
def State.takeResponse (b : Byte) (s : State) : State :=
  { s with down := { s.down with
      state := .receive, since := s.now, respLeft := s.down.respLeft - 1, respSum := s.down.respSum + b }
    }.joinUp b .body

/-- DOWN_RESPONSE_BYTE (R35). -/
def execDownResponseByte (dt : Time) (value : Byte) (s : State) : Out :=
  responseByte dt false s (State.takeResponse value)

/-- R35: the response's check byte is compared, counted and relayed. -/
def State.takeResponseCheck (b : Byte) (s : State) : State :=
  let agrees := decide (b = checkOf s.down.respSum)
  let t := { s with fc := { s.fc with relayAgrees := some agrees }, down := s.down.toIdle }
  (t.countDown fun c =>
    if agrees then { c with framesOk := satInc c.framesOk } else { c with check := satInc c.check }).joinUp
      b .ending

/-- DOWN_RESPONSE_CHECK (R35). -/
def execDownResponseCheck (dt : Time) (value : Byte) (s : State) : Out :=
  responseByte dt true s (State.takeResponseCheck value)

/-- R34, R35: the window of the start edge that is awaited, in half DOWN Tbit after `since`: 12 Tbit in LISTEN,
and 3 Tbit from the end of the byte before it in RECEIVE. -/
def State.responseWindow (s : State) : Nat := if s.downIs .listen then 24 else 7

/-- R3, R35: a low of break length began later than the latest moment at which the byte that is awaited can
be read, 9.5 Tbit after its start edge, so that another event was due before. -/
def State.responseLowLate (low : Time) (s : State) : Bool :=
  decide ((s.responseWindow + 19) * s.down.tbit + 2 * low < 2 * (s.now - s.down.since))

/-- R3, R5, R35: a short low covers the stop cell of the byte that began `elapsed` before, 9.5 DOWN Tbit after
its start edge. -/
def State.responseStopFits (low : StopLow) (s : State) : Bool :=
  decide (low.length < 13 * s.nominal) && decide (low.length ≤ low.elapsed)
    && decide (low.elapsed ≤ s.now - s.down.since)
    && decide (2 * low.elapsed ≤ 19 * s.down.tbit + 2 * low.length)

/-- R35: a response byte with a low stop cell is counted and ends the relay. -/
def State.responseFraming (s : State) : State :=
  (s.countDown fun c => { c with framing := satInc c.framing }).endResponse

/-- DOWN_RESPONSE_FRAMING (R3, R34, R35): the low is the one that covers the stop cell, 9.5 Tbit after
a start edge in the window; a low that reaches 13 nominal Tbit is DOWN_RESPONSE_BREAK's. -/
def execDownResponseFraming (low : StopLow) (s : State) : Out :=
  live low.dt s fun s =>
    if !(s.downReads && s.responseStopFits low) then .refused .outOfPlace
    else if 2 * low.elapsed < 19 * s.down.tbit then .refused .notDue
    else if s.responseWindow * s.down.tbit + 2 * low.elapsed < 2 * (s.now - s.down.since) then
      .refused .overdue
    else .next s.responseFraming

/-- DOWN_RESPONSE_GAP (R35): 3 Tbit after the end of a response byte. -/
def execDownResponseGap (dt : Time) (s : State) : Out :=
  event dt s (State.downIs .receive) (fun s => decide (7 * s.down.tbit ≤ 2 * (s.now - s.down.since)))
    fun s => (s.countDown fun c => { c with gap := satInc c.gap }).endResponse

/-- R35: a low of break length ends the relay. The port is IDLE and goes on timing the low (log 16). -/
def State.responseBreak (low : Time) (s : State) : State :=
  let t := s.endResponse
  { t with down := { t.down with low := some { since := s.now - low, tbit := s.nominal } } }

/-- DOWN_RESPONSE_BREAK (R3, R35): at this moment the low has lasted for its length. -/
def execDownResponseBreak (low : LowMoment) (s : State) : Out :=
  live low.dt s fun s =>
    if !s.downReads || decide (s.now - s.down.since < low.length) then .refused .outOfPlace
    else if low.length < 13 * s.nominal then .refused .notDue
    else if s.responseLowLate low.length then .refused .overdue
    else .next (s.responseBreak low.length)

/-! ### The quiet timer (R37) -/

/-- R37: the posting of an expiry, with the limit that ran out. -/
def quietPosting (limit : Byte) : Posting :=
  { code := .lineQuiet, subject := .port .up, detail := .byte limit }

/-- R37 and R109: the quiet timer expires; LINE_QUIET and the groups' FALLBACK events join the queue in
an order left open (R39, log 10). -/
def State.quietExpires (s : State) : State :=
  let t := { s with up := { s.up with quiet := .expired } }
  let tripped := t.takeCauses (fun g => s.groups[g].quietTrip) .quiet
  tripped.1.postBoth [quietPosting s.mgmt.quietLimit] tripped.2

/-- R63: an expiry that meets a pass, taken after the whole of that pass. The timer stays as the pass left
it: the port's own part is the same in both orders, LINE_QUIET and then LINE_BACK, and only the groups
take their cause after what the frame staged (log 30). -/
def State.metExpires (limit : Byte) (s : State) : State :=
  let t := { s with up := { s.up with met := none } }
  let tripped := t.takeCauses (fun g => s.groups[g].quietTrip) .quiet
  tripped.1.postBoth [quietPosting limit, lineBackPosting] tripped.2

/-- R63: the limit of an expiry that has met a pass at this very moment. -/
def State.metNow (s : State) : Option Byte :=
  match s.up.met with
  | some met => if met.moment = s.now then some met.limit else none
  | none => none

/-- The running quiet timer has reached its limit. -/
def State.quietDue (s : State) : Bool :=
  decide (s.up.quiet = .running) && decide (quietTime s.mgmt.quietLimit ≤ s.now - s.up.quietSince)

/-- LINE_QUIET (R37, R63). -/
def execLineQuiet (dt : Time) (s : State) : Out :=
  live dt s fun s =>
    if s.quietDue then .next s.quietExpires
    else match s.metNow with
      | some limit => .next (s.metExpires limit)
      | none => if s.up.quiet = .running then .refused .notDue else .refused .outOfPlace

end Sys2Proof.Machine
end

