-- ==== Sys2Proof/Machine/ManagementRows.lean ====
section
/-!
DEFINITION. The meanings of the management rows: each is the check-byte moment of a COMMAND frame that
passes and carries that command, with the operand bytes in the order of 12.5 (R168, R173, log 8).
-/

namespace Sys2Proof.Machine

/-- PING (R174). -/
def execPing (dt : Time) (via : Via) (seq : Seq) (s : State) : Out :=
  command dt via seq .ping [] s

/-- READ_STATUS (R186). -/
def execReadStatus (dt : Time) (via : Via) (seq : Seq) (s : State) : Out :=
  command dt via seq .readStatus [] s

/-- READ_COUNTS (R187). -/
def execReadCounts (dt : Time) (via : Via) (seq : Seq) (view : Byte) (s : State) : Out :=
  command dt via seq .readCounts [view] s

/-- CLEAR_COUNTS (R188). -/
def execClearCounts (dt : Time) (via : Via) (seq : Seq) (s : State) : Out :=
  command dt via seq .clearCounts [] s

/-- SET_LINE (R175). -/
def execSetLine (dt : Time) (via : Via) (seq : Seq) (rate limit : Byte) (s : State) : Out :=
  command dt via seq .setLine [rate, limit] s

/-- ASSIGN_STATION (R176, R177). -/
def execAssignStation (dt : Time) (via : Via) (seq : Seq) (station : Byte) (s : State) : Out :=
  command dt via seq .assignStation [station] s

/-- UNASSIGN (R178). -/
def execUnassign (dt : Time) (via : Via) (seq : Seq) (s : State) : Out :=
  command dt via seq .unassign [] s

/-- SOFT_RESET (R179). -/
def execSoftReset (dt : Time) (via : Via) (seq : Seq) (s : State) : Out :=
  command dt via seq .softReset [] s

/-- WRITE_TAG (R51, R52). -/
def execWriteTag (dt : Time) (via : Via) (seq : Seq)
    (tag role forward expected first count commitAfter filter sync buffer : Byte) (s : State) : Out :=
  command dt via seq .writeTag [tag, role, forward, expected, first, count, commitAfter, filter, sync, buffer] s

/-- READ_TAG (R54). -/
def execReadTag (dt : Time) (via : Via) (seq : Seq) (bank tag : Byte) (s : State) : Out :=
  command dt via seq .readTag [bank, tag] s

/-- WRITE_UNPACK (R53). -/
def execWriteUnpack (dt : Time) (via : Via) (seq : Seq)
    (first number : Byte) (descriptors : List Byte) (s : State) : Out :=
  command dt via seq .writeUnpack (first :: number :: descriptors) s

/-- READ_UNPACK (R55). -/
def execReadUnpack (dt : Time) (via : Via) (seq : Seq) (bank first number : Byte) (s : State) : Out :=
  command dt via seq .readUnpack [bank, first, number] s

/-- SWAP_BANKS (R57, R58). -/
def execSwapBanks (dt : Time) (via : Via) (seq : Seq) (s : State) : Out :=
  command dt via seq .swapBanks [] s

/-- COPY_BANK (R56). -/
def execCopyBank (dt : Time) (via : Via) (seq : Seq) (s : State) : Out :=
  command dt via seq .copyBank [] s

/-- CONFIG_CYCLE (R84). -/
def execConfigCycle (dt : Time) (via : Via) (seq : Seq)
    (tick periodHigh periodLow mode : Byte) (s : State) : Out :=
  command dt via seq .configCycle [tick, periodHigh, periodLow, mode] s

/-- CONFIG_CHANNEL (R86, R87). -/
def execConfigChannel (dt : Time) (via : Via) (seq : Seq)
    (chan mode group polarity leader trigger retrigger action : Byte) (s : State) : Out :=
  command dt via seq .configChannel [chan, mode, group, polarity, leader, trigger, retrigger, action] s

/-- CONFIG_GROUP (R75). -/
def execConfigGroup (dt : Time) (via : Via) (seq : Seq)
    (group sources holdLimit quietTrip : Byte) (s : State) : Out :=
  command dt via seq .configGroup [group, sources, holdLimit, quietTrip] s

/-- GROUP_START (R105). -/
def execGroupStart (dt : Time) (via : Via) (seq : Seq) (mask : Byte) (s : State) : Out :=
  command dt via seq .groupStart [mask] s

/-- GROUP_STOP (R106). -/
def execGroupStop (dt : Time) (via : Via) (seq : Seq) (mask : Byte) (s : State) : Out :=
  command dt via seq .groupStop [mask] s

/-- GROUP_RESUME (R113). -/
def execGroupResume (dt : Time) (via : Via) (seq : Seq) (mask : Byte) (s : State) : Out :=
  command dt via seq .groupResume [mask] s

/-- COMMIT (R76). -/
def execCommit (dt : Time) (via : Via) (seq : Seq) (mask : Byte) (s : State) : Out :=
  command dt via seq .commit [mask] s

/-- READ_CHANNEL (R77, R78). -/
def execReadChannel (dt : Time) (via : Via) (seq : Seq) (chan view : Byte) (s : State) : Out :=
  command dt via seq .readChannel [chan, view] s

/-- CONFIG_CAPTURE (R128). -/
def execConfigCapture (dt : Time) (via : Via) (seq : Seq)
    (input mode edge filter : Byte) (s : State) : Out :=
  command dt via seq .configCapture [input, mode, edge, filter] s

/-- READ_CAPTURE (R130). -/
def execReadCapture (dt : Time) (via : Via) (seq : Seq) (input : Byte) (s : State) : Out :=
  command dt via seq .readCapture [input] s

/-- CONFIG_SAMPLER (R142). -/
def execConfigSampler (dt : Time) (via : Via) (seq : Seq)
    (mode length entry0 entry1 entry2 entry3 source : Byte) (s : State) : Out :=
  command dt via seq .configSampler [mode, length, entry0, entry1, entry2, entry3, source] s

/-- SET_LIMITS (R144). -/
def execSetLimits (dt : Time) (via : Via) (seq : Seq)
    (input lowHigh lowLow highHigh highLow tripMask : Byte) (s : State) : Out :=
  command dt via seq .setLimits [input, lowHigh, lowLow, highHigh, highLow, tripMask] s

/-- SAMPLE_NOW (R145). -/
def execSampleNow (dt : Time) (via : Via) (seq : Seq) (s : State) : Out :=
  command dt via seq .sampleNow [] s

/-- READ_SAMPLES (R146). -/
def execReadSamples (dt : Time) (via : Via) (seq : Seq) (view input : Byte) (s : State) : Out :=
  command dt via seq .readSamples [view, input] s

/-- WRITE_SOURCE (R152). -/
def execWriteSource (dt : Time) (via : Via) (seq : Seq) (index kind selector : Byte) (s : State) : Out :=
  command dt via seq .writeSource [index, kind, selector] s

/-- WRITE_PUBMAP (R153). -/
def execWritePubmap (dt : Time) (via : Via) (seq : Seq) (buffer first count : Byte) (s : State) : Out :=
  command dt via seq .writePubmap [buffer, first, count] s

/-- READ_PUBLISH (R161). -/
def execReadPublish (dt : Time) (via : Via) (seq : Seq) (view operand half : Byte) (s : State) : Out :=
  command dt via seq .readPublish [view, operand, half] s

/-- EVENT_READ (R184). -/
def execEventRead (dt : Time) (via : Via) (seq : Seq) (s : State) : Out :=
  command dt via seq .eventRead [] s

/-- EVENT_ACK (R185). -/
def execEventAck (dt : Time) (via : Via) (seq : Seq) (stamp : Byte) (s : State) : Out :=
  command dt via seq .eventAck [stamp] s

end Sys2Proof.Machine
end

