-- ==== Sys2Proof/Machine/OutputRows.lean ====
section
/-!
DEFINITION. The meanings of the output and measurement rows: the cycle counter's wrap, the phases and
shots of the drive channels, the capture inputs and the sampler (chapters 5, 7 and 8).
-/

namespace Sys2Proof.Machine

/-! ### The cycle counter (R81) -/

/-- R81: the local cycle number steps and the wrap is a cycle start. -/
def State.wrap (s : State) : State := (s.restartCount (s.cycle.number + 1)).cycleStart []

/-- WRAP (R81): P ticks have passed since the last cycle start. -/
def execWrap (dt : Time) (s : State) : Out :=
  event dt s (fun _ => true) (fun s => decide (s.cycle.period ≤ s.count)) State.wrap

/-! ### WIDTH phases (R95, R96) -/

/-- R95: the count has reached the delay, the phase is not empty, and the cycle goes on. -/
def Channel.phaseOpens (count period : Nat) (c : Channel) : Bool :=
  decide (c.active.delay.toNat ≤ count) && decide (count < c.active.delay.toNat + c.active.setpoint.toNat)
    && decide (count < period)

/-- A WIDTH channel of a group that is not STOPPED, whose phase is not running. -/
def State.phaseCanStart (d : Chan) (s : State) : Bool :=
  let c := s.chans[d]
  decide (c.config.mode = .width) && decide (s.groupState c.config.group ≠ .stopped) && !c.phase

/-- WIDTH_PHASE_START (R95). -/
def execWidthPhaseStart (dt : Time) (chan : Chan) (s : State) : Out :=
  event dt s (State.phaseCanStart chan)
    (fun s => s.chans[chan].phaseOpens s.count s.cycle.period)
    fun s => s.setChan chan { s.chans[chan] with phase := true }

/-- A WIDTH channel whose phase is running and ends inside the cycle; a clipped phase is settled by the
cycle start (R95, R96). -/
def State.phaseCanEnd (d : Chan) (s : State) : Bool :=
  let c := s.chans[d]
  decide (c.config.mode = .width) && c.phase
    && decide (c.active.delay.toNat + c.active.setpoint.toNat < s.cycle.period)

/-- WIDTH_PHASE_END (R95, R96). -/
def execWidthPhaseEnd (dt : Time) (chan : Chan) (s : State) : Out :=
  event dt s (State.phaseCanEnd chan)
    (fun s =>
      decide (s.chans[chan].active.delay.toNat + s.chans[chan].active.setpoint.toNat ≤ s.count))
    fun s => s.drive (onlyOn chan Channel.endPhase)

/-! ### Shots (R98) -/

/-- Have so many tick lengths passed since a moment? -/
def State.ticksPassed (n : Value12) (since : Time) (s : State) : Bool :=
  decide (n.toNat * s.cycle.tick.length ≤ s.now - since)

/-- R98: the end of a shot's delay, ACTIVE or, with width 0, IDLE. -/
def Shot.afterDelay (now : Time) : Shot → Shot
  | .waiting delay width _ => if width ≠ 0 then .active delay width now else .idle
  | .active delay width since => .active delay width since
  | .idle => .idle

/-- Is the shot WAITING? -/
def Shot.isWaiting : Shot → Bool
  | .waiting _ _ _ => true
  | _ => false

/-- R98 and R102: the modes whose channels have shots. -/
def ChanMode.hasShots : ChanMode → Bool
  | .oneshot => true
  | .follow => true
  | .off => false
  | .level => false
  | .width => false

/-- SHOT_DELAY_END (R98). -/
def execShotDelayEnd (dt : Time) (chan : Chan) (s : State) : Out :=
  event dt s (fun s => s.chans[chan].config.mode.hasShots && s.chans[chan].shot.isWaiting)
    (fun s => match s.chans[chan].shot with
      | .waiting delay _ since => s.ticksPassed delay since
      | _ => false)
    fun s => s.setChan chan { s.chans[chan] with shot := s.chans[chan].shot.afterDelay s.now }

/-- SHOT_END (R98, R101, R102). -/
def execShotEnd (dt : Time) (chan : Chan) (s : State) : Out :=
  event dt s (fun s => s.chans[chan].config.mode.hasShots && s.chans[chan].shot.isActive)
    (fun s => match s.chans[chan].shot with
      | .active _ width since => s.ticksPassed width since
      | _ => false)
    fun s => s.drive (onlyOn chan Channel.endShot)

/-! ### Capture inputs (R120 to R125) -/

/-- R120: a pending change that has held for the filter width has not yet been taken. -/
def State.edgeDue (k : CapIn) (s : State) : Bool :=
  s.caps[k].change.any fun p => s.caps[k].held s.cycle.tick s.now p

/-- R124: a timed measurement has passed 65535 tick lengths, so that its overflow came before this moment. -/
def State.overflowMissed (k : CapIn) (s : State) : Bool :=
  s.caps[k].measure.opened.any fun opened => decide (65535 * s.cycle.tick.length < s.now - opened)

/-- Another event of the input was due before this moment (R120, R124). -/
def State.captureOverdue (k : CapIn) (s : State) : Bool := s.edgeDue k || s.overflowMissed k

/-- R120: the pin of an input takes a new level. A CONFIG_CAPTURE taken first at the same moment has given
the filtered level that new level, so that no edge is seen (R129, log 31). -/
def State.pinChange (k : CapIn) (level : Level) (s : State) : State :=
  let c := { s.caps[k] with pin := level }
  if c.mode = .off then s.setCap k c
  else if c.configuredAt = some s.now then s.setCap k { c with filtered := some level, change := none }
  else if c.filtered = some level then s.setCap k { c with change := none }
  else if c.filter = .f0 then (s.setCap k c).seeEdge k level
  else s.setCap k { c with change := some { level := level, since := s.now } }

/-- CAPTURE_PIN_CHANGE (R120). While RESET is low the pin's level is followed and nothing else (R131,
log 4). A pin that stands at the level already does not change. -/
def execCapturePinChange (dt : Time) (input : CapIn) (level : Level) (s : State) : Out :=
  let t := s.after dt
  if t.inReset then .next (t.setCap input { t.caps[input] with pin := level })
  else if t.caps[input].pin = level then .next t
  else if t.captureOverdue input then .refused .overdue
  else .next (t.pinChange input level)

/-- R120: the pending change of an input is seen as an edge. -/
def State.pendingEdge (k : CapIn) (s : State) : State :=
  match s.caps[k].change with
  | some p => s.seeEdge k p.level
  | none => s

/-- CAPTURE_EDGE (R120). A timed measurement that has passed 65535 tick lengths overflowed before (R124). -/
def execCaptureEdge (dt : Time) (input : CapIn) (s : State) : Out :=
  live dt s fun s =>
    if s.caps[input].change.isNone then .refused .outOfPlace
    else if !s.edgeDue input then .refused .notDue
    else if s.overflowMissed input then .refused .overdue
    else .next (s.pendingEdge input)

/-- CAPTURE_OVERFLOW (R124). -/
def execCaptureOverflow (dt : Time) (input : CapIn) (s : State) : Out :=
  event dt s (fun s => s.caps[input].measure.opened.isSome)
    (fun s => s.caps[input].measure.opened.any fun opened =>
      decide (65535 * s.cycle.tick.length ≤ s.now - opened))
    fun s => s.setCap input s.caps[input].overflow

/-! ### The sampler (R136, R137) -/

/-- SETTLING_END (R136). -/
def execSettlingEnd (dt : Time) (s : State) : Out :=
  live dt s fun s => match s.sampler.scan with
    | .settling since =>
      if settlingTime ≤ s.now - since then
        .next { s with sampler := { s.sampler with scan := .converting 0 s.now } }
      else .refused .notDue
    | _ => .refused .outOfPlace

/-- CONVERSION_END (R137): the converted value is the operand (log 20). -/
def execConversionEnd (dt : Time) (value : BitVec 10) (s : State) : Out :=
  live dt s fun s => match s.sampler.scan with
    | .converting pos since =>
      match s.sampler.list[pos.val]? with
      | some a =>
        if conversionTime ≤ s.now - since then .next (s.convert pos a value) else .refused .notDue
      | none => .refused .outOfPlace
    | _ => .refused .outOfPlace

end Sys2Proof.Machine
end

