-- ==== Sys2Proof/Machine/ResetRows.lean ====
section
/-!
DEFINITION. The RESET pin (R40, R181, and the reset values that each chapter gives).
-/

namespace Sys2Proof.Machine

/-- R40 and R92: with RESET low both line drivers release their wires and no channel keeps any running
state; the scan and the snapshots in progress are lost (R147, R159), and the counter stands at 0 (R80,
`State.count`). Every other item is given its reset value at the release, and nothing reads it before
(log 7). -/
def State.heldInReset (s : State) : State :=
  { s with
    inReset := true, up := { s.up with rx := .idle, start := none, tx := none, resp := [] }, fc := .reset, relay := [],
    down := { DownPort.reset with counts := s.down.counts },
    chans := mapChans Channel.heldInReset s.chans, sampler := s.sampler.abandon }

/-- RESET_ASSERT (R40). -/
def execResetAssert (dt : Time) (s : State) : Out :=
  let t := s.after dt
  if t.inReset then .next t else .next t.heldInReset

/-- R4: a low that stands at the release of RESET is timed from that moment, at 9,600 bit/s. -/
def State.lowAtRelease (low : Bool) (s : State) : Option LowTimer :=
  if low then some { since := s.now, tbit := Rate.r9600.tbit } else none

/-- R181 and the reset rules of every chapter: the part right after the release of RESET. The pins of the
capture inputs stand as they do, and time and the model's own counters go on. -/
def State.released (straps : BitVec 4) (upLow downLow : Bool) (s : State) : State :=
  { now := s.now, draws := s.draws, frames := s.frames, inReset := false, straps := straps,
    up := { UpPort.reset with rx := match s.lowAtRelease upLow with
      | some low => .lowSeen low
      | none => .idle },
    fc := .reset, relay := [], down := { DownPort.reset with low := s.lowAtRelease downLow },
    tags := .reset, chans := Vector.replicate 6 .reset, groups := Vector.replicate 4 .reset,
    lastMark := .reset, cycle := .resetAt s.now, caps := mapCaps (fun c => .resetAt c.pin) s.caps,
    sampler := .reset, publish := .reset, mgmt := .resetWith straps, events := .reset,
    pending := s.pending }

/-- RESET_RELEASE (R181): it also stands for the end of power-on reset (log 7). -/
def execResetRelease (dt : Time) (straps : BitVec 4) (upLow downLow : Bool) (s : State) : Out :=
  .next ((s.after dt).released straps upLow downLow)

end Sys2Proof.Machine
end

