-- ==== Sys2Proof/Machine/Dispatch.lean ====
section
/-!
DEFINITION. One arm for each command of spec/opcode_table.json, in the table's order.
-/

namespace Sys2Proof.Machine

/-- The effect of a command on everything but the queue of waiting commands. -/
def exec (i : Instr) (s : State) : Host.Outcome State Fault Refusal :=
  match i with
  | .resetAssert dt => Sys2Proof.Machine.execResetAssert dt s
  | .resetRelease dt straps upLow downLow => Sys2Proof.Machine.execResetRelease dt straps upLow downLow s
  | .strayLow dt => Sys2Proof.Machine.execStrayLow dt s
  | .upBreak dt => Sys2Proof.Machine.execUpBreak dt s
  | .frameAbort dt => Sys2Proof.Machine.execFrameAbort dt s
  | .lineStuck dt port => Sys2Proof.Machine.execLineStuck dt port s
  | .stuckEnd dt port => Sys2Proof.Machine.execStuckEnd dt port s
  | .rateByte dt span value => Sys2Proof.Machine.execRateByte dt span value s
  | .rateLimit dt wait => Sys2Proof.Machine.execRateLimit dt wait s
  | .addressByte dt value => Sys2Proof.Machine.execAddressByte dt value s
  | .lengthByte dt value => Sys2Proof.Machine.execLengthByte dt value s
  | .dataByte dt value => Sys2Proof.Machine.execDataByte dt value s
  | .checkByte dt value => Sys2Proof.Machine.execCheckByte dt value s
  | .framingError low => Sys2Proof.Machine.execFramingError low s
  | .gapError window => Sys2Proof.Machine.execGapError window s
  | .unanswered window => Sys2Proof.Machine.execUnanswered window s
  | .ownResponseStart dt => Sys2Proof.Machine.execOwnResponseStart dt s
  | .upByteSent dt => Sys2Proof.Machine.execUpByteSent dt s
  | .responseDelivered dt => Sys2Proof.Machine.execResponseDelivered dt s
  | .upConflict dt => Sys2Proof.Machine.execUpConflict dt s
  | .regenerationStart dt => Sys2Proof.Machine.execRegenerationStart dt s
  | .downBreakEnd dt => Sys2Proof.Machine.execDownBreakEnd dt s
  | .delimiterEnd dt => Sys2Proof.Machine.execDelimiterEnd dt s
  | .downByteSent dt => Sys2Proof.Machine.execDownByteSent dt s
  | .downConflict dt => Sys2Proof.Machine.execDownConflict dt s
  | .foreignLow low => Sys2Proof.Machine.execForeignLow low s
  | .foreignLowIgnored dt => Sys2Proof.Machine.execForeignLowIgnored dt s
  | .downBreak dt => Sys2Proof.Machine.execDownBreak dt s
  | .respTimeout dt => Sys2Proof.Machine.execRespTimeout dt s
  | .downResponseByte dt value => Sys2Proof.Machine.execDownResponseByte dt value s
  | .downResponseCheck dt value => Sys2Proof.Machine.execDownResponseCheck dt value s
  | .downResponseFraming low => Sys2Proof.Machine.execDownResponseFraming low s
  | .downResponseGap dt => Sys2Proof.Machine.execDownResponseGap dt s
  | .downResponseBreak low => Sys2Proof.Machine.execDownResponseBreak low s
  | .lineQuiet dt => Sys2Proof.Machine.execLineQuiet dt s
  | .wrap dt => Sys2Proof.Machine.execWrap dt s
  | .widthPhaseStart dt chan => Sys2Proof.Machine.execWidthPhaseStart dt chan s
  | .widthPhaseEnd dt chan => Sys2Proof.Machine.execWidthPhaseEnd dt chan s
  | .shotDelayEnd dt chan => Sys2Proof.Machine.execShotDelayEnd dt chan s
  | .shotEnd dt chan => Sys2Proof.Machine.execShotEnd dt chan s
  | .capturePinChange dt input level => Sys2Proof.Machine.execCapturePinChange dt input level s
  | .captureEdge dt input => Sys2Proof.Machine.execCaptureEdge dt input s
  | .captureOverflow dt input => Sys2Proof.Machine.execCaptureOverflow dt input s
  | .settlingEnd dt => Sys2Proof.Machine.execSettlingEnd dt s
  | .conversionEnd dt value => Sys2Proof.Machine.execConversionEnd dt value s
  | .ping dt via seq => Sys2Proof.Machine.execPing dt via seq s
  | .readStatus dt via seq => Sys2Proof.Machine.execReadStatus dt via seq s
  | .readCounts dt via seq view => Sys2Proof.Machine.execReadCounts dt via seq view s
  | .clearCounts dt via seq => Sys2Proof.Machine.execClearCounts dt via seq s
  | .setLine dt via seq rate limit => Sys2Proof.Machine.execSetLine dt via seq rate limit s
  | .assignStation dt via seq station => Sys2Proof.Machine.execAssignStation dt via seq station s
  | .unassign dt via seq => Sys2Proof.Machine.execUnassign dt via seq s
  | .softReset dt via seq => Sys2Proof.Machine.execSoftReset dt via seq s
  | .writeTag dt via seq tag role forward expected first count commitAfter filter sync buffer => Sys2Proof.Machine.execWriteTag dt via seq tag role forward expected first count commitAfter filter sync buffer s
  | .readTag dt via seq bank tag => Sys2Proof.Machine.execReadTag dt via seq bank tag s
  | .writeUnpack dt via seq first number descriptors => Sys2Proof.Machine.execWriteUnpack dt via seq first number descriptors s
  | .readUnpack dt via seq bank first number => Sys2Proof.Machine.execReadUnpack dt via seq bank first number s
  | .swapBanks dt via seq => Sys2Proof.Machine.execSwapBanks dt via seq s
  | .copyBank dt via seq => Sys2Proof.Machine.execCopyBank dt via seq s
  | .configCycle dt via seq tick periodHigh periodLow mode => Sys2Proof.Machine.execConfigCycle dt via seq tick periodHigh periodLow mode s
  | .configChannel dt via seq chan mode group polarity leader trigger retrigger action => Sys2Proof.Machine.execConfigChannel dt via seq chan mode group polarity leader trigger retrigger action s
  | .configGroup dt via seq group sources holdLimit quietTrip => Sys2Proof.Machine.execConfigGroup dt via seq group sources holdLimit quietTrip s
  | .groupStart dt via seq mask => Sys2Proof.Machine.execGroupStart dt via seq mask s
  | .groupStop dt via seq mask => Sys2Proof.Machine.execGroupStop dt via seq mask s
  | .groupResume dt via seq mask => Sys2Proof.Machine.execGroupResume dt via seq mask s
  | .commit dt via seq mask => Sys2Proof.Machine.execCommit dt via seq mask s
  | .readChannel dt via seq chan view => Sys2Proof.Machine.execReadChannel dt via seq chan view s
  | .configCapture dt via seq input mode edge filter => Sys2Proof.Machine.execConfigCapture dt via seq input mode edge filter s
  | .readCapture dt via seq input => Sys2Proof.Machine.execReadCapture dt via seq input s
  | .configSampler dt via seq mode length entry0 entry1 entry2 entry3 source => Sys2Proof.Machine.execConfigSampler dt via seq mode length entry0 entry1 entry2 entry3 source s
  | .setLimits dt via seq input lowHigh lowLow highHigh highLow tripMask => Sys2Proof.Machine.execSetLimits dt via seq input lowHigh lowLow highHigh highLow tripMask s
  | .sampleNow dt via seq => Sys2Proof.Machine.execSampleNow dt via seq s
  | .readSamples dt via seq view input => Sys2Proof.Machine.execReadSamples dt via seq view input s
  | .writeSource dt via seq index kind selector => Sys2Proof.Machine.execWriteSource dt via seq index kind selector s
  | .writePubmap dt via seq buffer first count => Sys2Proof.Machine.execWritePubmap dt via seq buffer first count s
  | .readPublish dt via seq view operand half => Sys2Proof.Machine.execReadPublish dt via seq view operand half s
  | .eventRead dt via seq => Sys2Proof.Machine.execEventRead dt via seq s
  | .eventAck dt via seq stamp => Sys2Proof.Machine.execEventAck dt via seq stamp s
  | .upLowSeen dt => Sys2Proof.Machine.execUpLowSeen dt s

end Sys2Proof.Machine
end

