-- ==== Sys2Proof/Certificates/Slice0/Obligations.lean ====
section
/-!
DEFINITION. The statements for the provers. What they share stands first, in the namespace Claims: the
time of a command, the rows of the management commands with the bytes of 12.5, and what a frame's pass
and an executed command leave. These are written from the spec, not from the machine's own operations.
Every command carries the time `dt` that passes before it (the model's choice, log 1).
-/

namespace Sys2Proof.Claims

open Sys2Proof.Machine

/-- A management row: how its frame reaches the bridge, its sequence and its data bytes. -/
structure Row where
  via : Via
  seq : Seq
  bytes : List Byte
  deriving DecidableEq, Repr

/-- The management rows, with the command codes and the operand order of 12.5. -/
def rowOf : Instr → Option Row
  | .ping _ v q => some ⟨v, q, [0x01]⟩
  | .readStatus _ v q => some ⟨v, q, [0x02]⟩
  | .readCounts _ v q a => some ⟨v, q, [0x03, a]⟩
  | .clearCounts _ v q => some ⟨v, q, [0x04]⟩
  | .setLine _ v q a b => some ⟨v, q, [0x05, a, b]⟩
  | .assignStation _ v q a => some ⟨v, q, [0x06, a]⟩
  | .unassign _ v q => some ⟨v, q, [0x07]⟩
  | .softReset _ v q => some ⟨v, q, [0x08]⟩
  | .writeTag _ v q a b c d e f g h i j => some ⟨v, q, [0x10, a, b, c, d, e, f, g, h, i, j]⟩
  | .readTag _ v q a b => some ⟨v, q, [0x11, a, b]⟩
  | .writeUnpack _ v q a b ds => some ⟨v, q, 0x12 :: a :: b :: ds⟩
  | .readUnpack _ v q a b c => some ⟨v, q, [0x13, a, b, c]⟩
  | .swapBanks _ v q => some ⟨v, q, [0x14]⟩
  | .copyBank _ v q => some ⟨v, q, [0x15]⟩
  | .configCycle _ v q a b c d => some ⟨v, q, [0x20, a, b, c, d]⟩
  | .configChannel _ v q a b c d e f g h => some ⟨v, q, [0x21, a, b, c, d, e, f, g, h]⟩
  | .configGroup _ v q a b c d => some ⟨v, q, [0x22, a, b, c, d]⟩
  | .groupStart _ v q a => some ⟨v, q, [0x23, a]⟩
  | .groupStop _ v q a => some ⟨v, q, [0x24, a]⟩
  | .groupResume _ v q a => some ⟨v, q, [0x25, a]⟩
  | .commit _ v q a => some ⟨v, q, [0x26, a]⟩
  | .readChannel _ v q a b => some ⟨v, q, [0x27, a, b]⟩
  | .configCapture _ v q a b c d => some ⟨v, q, [0x30, a, b, c, d]⟩
  | .readCapture _ v q a => some ⟨v, q, [0x31, a]⟩
  | .configSampler _ v q a b c d e f g => some ⟨v, q, [0x32, a, b, c, d, e, f, g]⟩
  | .setLimits _ v q a b c d e f => some ⟨v, q, [0x33, a, b, c, d, e, f]⟩
  | .sampleNow _ v q => some ⟨v, q, [0x34]⟩
  | .readSamples _ v q a b => some ⟨v, q, [0x35, a, b]⟩
  | .writeSource _ v q a b c => some ⟨v, q, [0x40, a, b, c]⟩
  | .writePubmap _ v q a b c => some ⟨v, q, [0x41, a, b, c]⟩
  | .readPublish _ v q a b c => some ⟨v, q, [0x42, a, b, c]⟩
  | .eventRead _ v q => some ⟨v, q, [0x50]⟩
  | .eventAck _ v q a => some ⟨v, q, [0x51, a]⟩
  | _ => none

/-- R20 and R37: FRAMES_OK counts a frame that passes, and the quiet timer restarts under the limit in force.
An expiry whose moment is this very one has met the pass (R63, log 30). -/
def counted (dt : Time) (s : State) : State :=
  { s with
    now := s.now + dt,
    up := { s.up with
      counts := { s.up.counts with framesOk := satInc s.up.counts.framesOk },
      quiet := if s.mgmt.quietLimit = 0 then .off else .running, quietSince := s.now + dt,
      met := if s.up.quiet = .running ∧
          s.now + dt = s.up.quietSince + s.mgmt.quietLimit.toNat * 120000 then
        some { moment := s.now + dt, limit := s.mgmt.quietLimit } else none } }

/-- R37: LINE_BACK is posted at a pass if the quiet timer had expired. -/
def backPosts (s : State) : List Posting :=
  if s.up.quiet = .expired then [{ code := .lineBack, subject := .port .up, detail := .none }] else []

/-- R27: RELAY_OVERRUN is posted for a head-sent byte of a LIVE relay that meets 32 entries. -/
def overrunPosts (s : State) : List Posting :=
  if s.fc.relay = some .live ∧ 32 ≤ s.relay.length then
    [{ code := .relayOverrun, subject := .port .down, detail := match s.fc.addr with
      | some b => .byte b
      | none => .none }]
  else []

/-- R20 and R37: the state in which a frame passes its check: it is counted, and LINE_BACK is posted if the
quiet timer had expired. -/
def passed (dt : Time) (s : State) : State := (counted dt s).postAll (backPosts s)

/-- R166: a command for this bridge passes the sequence test. -/
def taken (dt : Time) (seq : Seq) (s : State) : State :=
  let t := passed dt s
  { t with mgmt := { t.mgmt with lastSeq := some seq } }

/-- R170: the reply record of an executed command is written. -/
def replied (code : Byte) (seq : Seq) (result : CmdResult) (data : List Byte) (t : State) : State :=
  { t with mgmt := { t.mgmt with
      reply := { result := some result, code := some code, seq := some seq, data := data } } }

/-- RESET is high, and the UP line is free for a frame that has just passed (log 8). -/
def lineFree (s : State) : Prop := s.inReset = false ∧ s.fc.state = .done ∧ s.up.rx = .idle

/-- A command with this sequence, addressed to this bridge's own station, is executed (R165, R166). -/
def takesOwn (station : Fin 15) (seq : Seq) (s : State) : Prop :=
  lineFree s ∧ s.mgmt.station = some station ∧ s.mgmt.lastSeq ≠ some seq

/-- A broadcast with this sequence passes the sequence test. -/
def takesBroadcast (seq : Seq) (s : State) : Prop := lineFree s ∧ s.mgmt.lastSeq ≠ some seq

/-- R88 for the channels of one group. -/
def leadersOk (chans : Vector Channel 6) (g : Group) : Bool :=
  allChans.all fun f =>
    decide (chans[f].config.group = g ∧ chans[f].config.mode = .follow →
      ∃ l : Chan, chans[f].config.leader = some l ∧ l < f ∧
        (chans[l].config.mode = .width ∨ chans[l].config.mode = .oneshot ∨ chans[l].config.mode = .follow))

/-- R58: an entry refers only to descriptors of its bank whose bytes lie within its expected length. -/
def entrySound (b : Bank) (e : TagEntry) : Prop :=
  e.role = .consume →
    e.unpackFirst.val + e.unpackCount.val ≤ 48 ∧
    ∀ k : Fin 48, e.unpackFirst.val ≤ k.val → k.val < e.unpackFirst.val + e.unpackCount.val →
      ∃ n : Fin 17, e.expected = .exactly n ∧
        b.descriptors[k].offset.val + (if b.descriptors[k].size = .two then 2 else 1) ≤ n.val

/-- R58: every entry of a bank is sound. -/
def bankSound (b : Bank) : Prop := ∀ tag : Tag, entrySound b b.entries[tag]

/-- R119 and R133: a result is stored. -/
def stored (c : Capture) (v : BitVec 16) (status : CaptureStatus) : Capture :=
  { c with value := v, status := status, seq := c.seq + 1 }

/-- R121: whole tick lengths since an edge, up to 65535. -/
def elapsedTicks (tick : Tick) (opened now : Time) : BitVec 16 :=
  BitVec.ofNat 16 (min ((now - opened) / tick.length) 65535)

/-- R98: the shot that a start gives. -/
def startedShot (a : Active) (now : Time) : Shot :=
  if a.delay ≠ 0 then .waiting a.delay a.setpoint now
  else if a.setpoint ≠ 0 then .active 0 a.setpoint now
  else .idle

/-- R134 and R135: the sampler meets a trigger of a source. -/
def triggered (src : SamplerSource) (now : Time) (sm : Sampler) : Sampler :=
  if sm.source ≠ some src then sm
  else match sm.scan with
    | .off => sm
    | .ready => { sm with scan := .converting 0 now }
    | .asleep => { sm with scan := .settling now }
    | .settling _ => { sm with overrun := satInc sm.overrun }
    | .converting _ _ => { sm with overrun := satInc sm.overrun }

/-- R111 and R112: a channel whose group enters FALLBACK. With a setpoint of 0 it has no WIDTH phase (R95, log
28). -/
def fellBack (c : Channel) : Channel :=
  let emptied : Channel := { c with
    stage := { setpoint := none, delay := none, source := none, overwrite := c.stage.overwrite },
    armed := { setpoint := none, delay := none } }
  match c.config.action with
  | .idle => { emptied with
      active := { setpoint := 0, delay := c.active.delay }, override := .idle, shot := .idle,
      phase := false }
  | .active => { emptied with override := .active, shot := .idle }
  | .hold => { emptied with override := .none }

/-- R42, R50, R60, R61, R80, R85, R103, R118, R132, R148, R150 and R151: the tag table, the apply engine, the
counter, the channels, the groups, the capture inputs, the sampler and the publish buffers hold the values
that a pin or power reset and a soft reset give them; the counter counts from `now`. The level of a capture
pin stands outside the part. -/
def blocksReset (s t : State) (now : Time) : Prop :=
  (∀ tag : Tag, t.tags.active.entries[tag] =
    { role := .relay, forward := .down, expected := .any, unpackFirst := 0, unpackCount := 0,
      commitAfter := false, filter := 0, cycleSync := false, buffer := 0 } ∧
    t.tags.runtime[tag] = { lastSeq := none, accepted := 0, lastGeneration := none }) ∧
  (∀ i : Fin 48, t.tags.active.descriptors[i] =
    { offset := 0, size := .one, chan := 0, param := .setpoint }) ∧
  t.tags.shadow = t.tags.active ∧ t.tags.generation = 0 ∧
  (∀ d : Chan,
    t.chans[d].config = { mode := .off, group := 0, polarity := .activeHigh, leader := none,
                          trigger := none, retrigger := none, action := .idle } ∧
    t.chans[d].stage = { setpoint := none, delay := none, source := none, overwrite := 0 } ∧
    t.chans[d].clamp = 0 ∧ t.chans[d].armed = { setpoint := none, delay := none } ∧
    t.chans[d].active = { setpoint := 0, delay := 0 } ∧ t.chans[d].shot = .idle ∧
    t.chans[d].latch = false ∧ t.chans[d].phase = false ∧ t.chans[d].override = .none ∧
    t.chans[d].ignored = 0) ∧
  (∀ g : Group, t.groups[g] =
    { state := .stopped, hold := 0, reason := none, endPending := false, sources := 0b0101,
      holdLimit := 0, quietTrip := false, discard := 0 }) ∧
  t.lastMark = { cycle := none, groups := 0 } ∧
  t.cycle = { tick := .us10, period := 1000, mode := .free, base := now, number := 0 } ∧
  (∀ k : CapIn, t.caps[k] =
    { pin := s.caps[k].pin, mode := .off, edge := none, filter := .f0, filtered := none, change := none,
      measure := .off, running := 0, value := 0, status := .empty, seq := 0, configuredAt := none }) ∧
  t.sampler.mode = .off ∧ t.sampler.list = [] ∧ t.sampler.source = none ∧ t.sampler.scan = .off ∧
  t.sampler.overrun = 0 ∧
  (∀ a : AnIn, t.sampler.inputs[a] =
    { value := 0, valid := false, seq := 0, low := 0, high := 1023, trip := 0, outside := false }) ∧
  (∀ i : Fin 32, t.publish.source[i] = .const 0) ∧
  ∀ b : Buf, t.publish.maps[b] = { first := 0, count := 0 } ∧ t.publish.records[b].snapshot = [] ∧
    t.publish.records[b].snapshotSeqs = [] ∧ t.publish.records[b].servedCount = 0 ∧
    t.publish.records[b].outcome = none ∧ ∀ i : Fin 8, t.publish.records[b].served[i] = none

/-- R109 to R111: does a group enter FALLBACK when it takes a cause? -/
def entersFallback (r : GroupRec) : Bool := decide (r.state = .run ∨ r.state = .resuming)

/-- R111: a group that enters FALLBACK. -/
def groupFallen (cause : Cause) (r : GroupRec) : GroupRec :=
  { r with state := .fallback, endPending := false, hold := 0, reason := some cause }

/-- R109 to R111 and R117: of the groups for which a test holds, RUN and RESUMING ones enter FALLBACK with
their channels, those in FALLBACK and STOPPED keep all; one FALLBACK event is posted for each that is not
STOPPED, in the order G0 to G3, and `own` are posted at the same moment in an order left open (R39, R140). -/
def causeTaken (p : Group → Bool) (cause : Cause) (own : List Posting) (s t : State) : Prop :=
  (∀ g : Group, t.groups[g] =
    if p g && entersFallback s.groups[g] then groupFallen cause s.groups[g] else s.groups[g]) ∧
  (∀ d : Chan, t.chans[d] =
    if p s.chans[d].config.group && entersFallback s.groups[s.chans[d].config.group] then
      fellBack s.chans[d] else s.chans[d]) ∧
  ∃ ps : List Posting, t.events = ps.foldl (fun b q => b.post s.cycle.number q) s.events ∧
    ps.filter (fun q => decide (q.code ≠ .fallback)) = own ∧
    ps.filter (fun q => decide (q.code = .fallback)) =
      (allGroups.filter fun g => p g && decide (s.groups[g].state ≠ .stopped)).map fun g =>
        { code := .fallback, subject := .group g,
          detail := .cause cause (decide (s.groups[g].state = .fallback)) }

end Sys2Proof.Claims

open Sys2Proof Sys2Proof.Machine

/-! ### The step, the queue and the RESET pin -/

/-- A step takes the command at the front of the queue and executes it with the queue's rest; on an
empty queue the block idles (DESIGN CHOICE, log 1). -/
def Obligations.StepTakesTheFrontCommand : Prop :=
  (∀ (c : Instr) (s : State), step { s with pending := c :: s.pending } = exec c s) ∧
  ∀ s : State, s.pending = [] → step s = .next s

/-- No command touches the queue (the model's choice, log 1); each lets its own time pass (the model's choice,
logs 1 and 27); only RESET_ASSERT and RESET_RELEASE change the RESET pin's condition, and only
RESET_RELEASE reads the straps (R164). -/
def Obligations.EveryCommandKeepsQueueTimeAndStraps : Prop :=
  ∀ (c : Instr) (s t : State), exec c s = .next t →
    t.pending = s.pending ∧ t.now = s.now + c.dt ∧
    ((∀ dt straps up down, c ≠ .resetRelease dt straps up down) → t.straps = s.straps) ∧
    ((∀ dt, c ≠ .resetAssert dt) → (∀ dt straps up down, c ≠ .resetRelease dt straps up down) →
      t.inReset = s.inReset)

/-- R40, R42, R50, R60, R61, R80, R85, R103, R118, R132, R148, R150, R151, R163, R170, R182: what the part
holds right after the release of RESET. -/
def Obligations.ResetReleaseGivesTheResetValues : Prop :=
  ∀ (dt : Time) (straps : BitVec 4) (upLow downLow : Bool) (s : State), ∃ t : State,
    exec (.resetRelease dt straps upLow downLow) s = .next t ∧
    t.now = s.now + dt ∧ t.pending = s.pending ∧ t.inReset = false ∧ t.straps = straps ∧
    -- the ports
    t.up.rx = (if upLow then .lowSeen { since := s.now + dt, tbit := 1250 } else .idle) ∧
    t.up.start = none ∧ t.up.tx = none ∧ t.up.resp = [] ∧ t.up.quiet = .off ∧ t.up.met = none ∧
    t.up.counts = { framesOk := 0, rate := 0, format := 0, framing := 0, gap := 0, length := 0, check := 0,
                    mismatch := 0, repeats := 0, conflict := 0, stray := 0 } ∧
    t.fc.state = .done ∧ t.fc.head = none ∧ t.fc.copy = none ∧ t.fc.forward = none ∧ t.fc.answer = none ∧
    t.fc.relay = none ∧ t.fc.data = [] ∧ t.fc.outcome = none ∧ t.relay = [] ∧
    t.down.state = .idle ∧ t.down.cur = none ∧
    t.down.low = (if downLow then some { since := s.now + dt, tbit := 1250 } else none) ∧
    t.down.counts = { framesOk := 0, check := 0, framing := 0, gap := 0, timeout := 0, conflict := 0,
                      foreign := 0 } ∧
    Claims.blocksReset s t (s.now + dt) ∧
    -- management and events
    (∀ n : Fin 15, t.mgmt.station = some n ↔ straps.toNat = n.val) ∧ t.mgmt.lastSeq = none ∧
    t.mgmt.reply = { result := none, code := none, seq := none, data := [] } ∧ t.mgmt.rate = .r9600 ∧
    t.mgmt.quietLimit = 0 ∧ t.mgmt.rejects = 0 ∧
    t.events = { queue := [], nextStamp := 0, lost := 0 }

/-- R40, R80, R89, R92 and R189: with RESET low both line drivers release their wires, every drive pin is
high-impedance and ATTN is released; a frame in flight is lost without an event; no channel keeps any
running state, and the counter does not count. What has no meaning until the release is left as it was
(DESIGN CHOICE, log 7). -/
def Sys2Proof.Claims.ResetAssertReleasesEveryDriver : Prop :=
  ∀ (dt : Time) (s : State), s.inReset = false → ∃ t : State,
    exec (.resetAssert dt) s = .next t ∧
    t.inReset = true ∧ t.upDrive = .released ∧ t.downDrive = .released ∧ t.attn = false ∧
    (∀ d : Chan, t.drivePin d = .highImpedance) ∧ t.fc.state = .done ∧ t.relay = [] ∧
    t.down.state = .idle ∧ t.count = 0 ∧ (∀ dt' : Time, (t.after dt').count = 0) ∧
    (∀ d : Chan, t.chans[d] = { s.chans[d] with
      shot := .idle, override := .none, latch := false, phase := false, ignored := 0 }) ∧
    t.events = s.events ∧ t.tags = s.tags ∧ t.groups = s.groups ∧ t.mgmt = s.mgmt ∧ t.caps = s.caps ∧
    t.publish = s.publish ∧ t.cycle = s.cycle ∧ t.lastMark = s.lastMark ∧ t.up.counts = s.up.counts ∧
    t.down.counts = s.down.counts

/-- The model's choice of log 4: while RESET is low, a command but the release only lets time pass, and
a change of a capture pin moves that pin and nothing else (R40, R131). -/
def Sys2Proof.Claims.OnlyTimePassesWhileResetIsLow : Prop :=
  (∀ (c : Instr) (s : State), s.inReset = true →
    (∀ dt straps up down, c ≠ .resetRelease dt straps up down) →
    (∀ dt k l, c ≠ .capturePinChange dt k l) →
    exec c s = .next { s with now := s.now + c.dt }) ∧
  ∀ (dt : Time) (k : CapIn) (l : Level) (s : State), s.inReset = true →
    exec (.capturePinChange dt k l) s =
      .next { s with now := s.now + dt, caps := s.caps.set k { s.caps[k] with pin := l } }

/-- R40, R80, R89, R92, R131, R189 and logs 4 and 7: with RESET low every driver is released and nothing runs, and only time and the capture pins go on. -/
def Obligations.ResetLowHoldsThePart : Prop :=
  Claims.ResetAssertReleasesEveryDriver ∧ Claims.OnlyTimePassesWhileResetIsLow

/-! ### Lows and line errors on UP -/

/-- Seven Tbit by which a start cell is read: nominal ones before the rate byte is known (R5, R7). -/
def Sys2Proof.Claims.sevenTbit (s : State) : Time :=
  if s.fc.state = .rate then 7 * s.mgmt.rate.tbit else s.fc.span.getD 0

/-- R5: a falling edge stands as a start edge `dt` later: its start cell has been read low, or its centre is
still ahead, or a low that began by that centre is still being timed. -/
def Sys2Proof.Claims.stands (dt : Time) (s : State) (b : StartEdge) : Prop :=
  b.read = true ∨ 14 * (s.now + dt - b.edge) < Claims.sevenTbit s ∨
    ∃ low, s.up.rx = .lowSeen low ∧ 14 * (low.since - b.edge) ≤ Claims.sevenTbit s

/-- R5: what `dt` makes of the start edge of the byte under way. One that stands is kept, and marked as read
once its centre is reached; one whose start cell read high is gone. -/
def Sys2Proof.Claims.startAfter (dt : Time) (s : State) (start : Option StartEdge) : Prop :=
  (∀ b, s.up.start = some b → Claims.stands dt s b →
    start = some { b with read := b.read || decide (Claims.sevenTbit s ≤ 14 * (s.now + dt - b.edge)) }) ∧
  ((∀ b, s.up.start = some b → ¬Claims.stands dt s b) → start = none)

namespace Sys2Proof.Claims

/-- R13 and R14: twice the window of the start edge that is awaited: 3 nominal Tbit from the break's rising edge,
or 3 measured Tbit (10 for the first byte of a response that the bridge listens to) from the end of the byte
before, half a Tbit after its stop-cell centre. -/
def window (s : State) : Time :=
  if s.fc.state = .rate then 6 * s.mgmt.rate.tbit
  else if s.fc.answer = some .listen ∧ s.fc.data = [] then 3 * s.fc.span.getD 0 else s.fc.span.getD 0

/-- R13 and R14: the start edge came in time. -/
abbrev startInTime (s : State) (b : StartEdge) : Prop := 2 * (b.edge - s.fc.ref) ≤ window s

/-- R6 and R7: seven Tbit of the byte under way; for a rate byte the span to its fourth falling edge. -/
def seven (s : State) (b : StartEdge) : Option Time :=
  if s.fc.state = .rate then b.falls[2]?.map (fun fourth => fourth - b.edge) else some (s.fc.span.getD 0)

/-- R7, step 1: `dt` later the rate byte has not failed the rate step. -/
def rateHolds (dt : Time) (s : State) (b : StartEdge) : Prop :=
  s.fc.state = .rate → match seven s b with
    | some span => 616 * s.mgmt.rate.tbit ≤ 100 * span ∧ 100 * span ≤ 784 * s.mgmt.rate.tbit
    | none => 100 * (s.now + dt - b.edge) ≤ 784 * s.mgmt.rate.tbit

/-- R5: `dt` later the byte is still being read: in time, at a rate that holds, up to its stop-cell centre. -/
def readOn (dt : Time) (s : State) (b : StartEdge) : Prop :=
  startInTime s b ∧ rateHolds dt s b ∧ ∀ n, seven s b = some n → 14 * (s.now + dt - b.edge) ≤ 19 * n

/-- R5: `dt` later, a low that has lasted since then covers the byte's stop-cell centre. -/
def covers (dt : Time) (s : State) (b : StartEdge) (since : Time) : Prop :=
  ∃ n, seven s b = some n ∧ 14 * (since - b.edge) ≤ 19 * n ∧ 19 * n ≤ 14 * (s.now + dt - b.edge)

/-- The start edges of the frame that stand `dt` later. -/
def standing (dt : Time) (s : State) (b : StartEdge) : Prop := s.up.start = some b ∧ stands dt s b

end Sys2Proof.Claims

/-- R2, R5, R6, R15 and R17: a falling edge that the UP port did not cause is timed from then on, in the nominal
Tbit in force. Inside a frame it is one more falling edge of the byte under way, or a start edge where none
stands; nothing else changes. Where that byte, or its frame, has ended before, the row is refused (log 3). -/
def Sys2Proof.Claims.FallingEdgeOnUpIsTimed : Prop :=
  ∀ (dt : Time) (s : State), s.inReset = false →
    (s.up.rx = .idle ∧ s.fc.state ≠ .responding ∧ s.fc.state ≠ .relayResponse) ∨
      ((∃ low, s.up.rx = .lowSeen low) ∧
        s.fc.state ∈ [FcState.rate, .address, .length, .data, .check]) →
    (s.fc.state = .done ∨ (∀ b, Claims.standing dt s b → Claims.readOn dt s b) →
      ∃ kept start : Option StartEdge, Claims.startAfter dt s kept ∧
      (s.fc.state = .done → start = none) ∧
      (s.fc.state ≠ .done → start = some (match kept with
        | some b => { b with falls := b.falls ++ [s.now + dt] }
        | none => { edge := s.now + dt, read := false, falls := [] })) ∧
      exec (.upLowSeen dt) s = .next { s with
        now := s.now + dt,
        up := { s.up with
          start := start
          rx := .lowSeen { since := s.now + dt, tbit := match s.mgmt.rate with
            | .r4800 => 2500
            | .r9600 => 1250
            | .r19200 => 625 } } }) ∧
    (s.fc.state ≠ .done → (∃ b, Claims.standing dt s b ∧ ¬Claims.readOn dt s b) →
      exec (.upLowSeen dt) s = .refused .overdue)

/-- R3, R17, R18 and R19: between frames, the length of a low decides what it is, and each of the three
commands is refused where the length gives another meaning (the refusals are the model's, log 3). -/
def Sys2Proof.Claims.LengthOfALowDecidesItsMeaning : Prop :=
  ∀ (dt : Time) (low : LowTimer) (s : State), s.inReset = false → s.fc.state = .done →
    s.up.rx = .lowSeen low →
    let n := s.now + dt - low.since
    exec (.strayLow dt) s = (if n < 13 * low.tbit then
      .next { s with
        now := s.now + dt,
        up := { s.up with
          rx := .idle, start := none,
          counts := { s.up.counts with stray := satInc s.up.counts.stray } } }
      else .refused .outOfPlace) ∧
    exec (.upBreak dt) s = (if 13 * low.tbit ≤ n ∧ n ≤ 200 * low.tbit then
      .next { s with
        now := s.now + dt, frames := s.frames + 1, up := { s.up with rx := .idle, start := none },
        fc := { state := .rate, span := none, head := none, addr := none, lengthByte := none, copy := none,
                forward := none, answer := none, relay := none, count := none, seq := none, data := [],
                sum := 0, outcome := none, noLocal := false, ref := s.now + dt, relayAgrees := none,
                relayEnded := false, id := s.frames + 1 } }
      else .refused .outOfPlace) ∧
    exec (.lineStuck dt .up) s = (if 200 * low.tbit < n then
      .next { s with
        now := s.now + dt, up := { s.up with rx := .stuck, start := none },
        events := s.events.post s.cycle.number
          { code := .lineStuck, subject := .port .up, detail := .none } }
      else .refused .notDue)

/-- R4, R18 and R32: the rising edge that ends a stuck low returns the port's receiver to IDLE, posts
nothing and opens no frame; at a port that is not stuck there is no such edge (log 3). -/
def Sys2Proof.Claims.StuckLowEndsWithoutAFrame : Prop :=
  ∀ (dt : Time) (s : State), s.inReset = false →
    exec (.stuckEnd dt .up) s = (if s.up.rx = .stuck then
      .next { s with now := s.now + dt, up := { s.up with rx := .idle, start := none } } else .refused .outOfPlace) ∧
    exec (.stuckEnd dt .down) s = (if s.down.state = .stuck then
      .next { s with now := s.now + dt, down := { s.down with state := .idle } }
      else .refused .outOfPlace)

/-- R5 and R17: a short low inside a frame that the bridge receives is a part of a byte, or a false start: when it
ends the receiver is IDLE again, a start edge whose start cell read low stands, and nothing is counted (DEDUCED, log 17: the row STRAY_LOW stands for
that end too). A low of 13 nominal Tbit is FRAME_ABORT's. A short low over the stop cell of the byte under way
ends the frame with FRAMING, so that this row is refused there, as where that byte or its frame has ended
before (log 3). -/
def Sys2Proof.Claims.ShortLowInAFrameOnlyEnds : Prop :=
  ∀ (dt : Time) (low : LowTimer) (s : State), s.inReset = false →
    s.fc.state ∈ [FcState.rate, .address, .length, .data, .check] → s.up.rx = .lowSeen low →
    let ends (b : StartEdge) : Prop := Claims.readOn dt s b ∧ ¬Claims.covers dt s b low.since
    (13 * low.tbit ≤ s.now + dt - low.since → exec (.strayLow dt) s = .refused .outOfPlace) ∧
    (s.now + dt - low.since < 13 * low.tbit → (∀ b, Claims.standing dt s b → ends b) →
      ∃ start : Option StartEdge, Claims.startAfter dt s start ∧
      exec (.strayLow dt) s =
        .next { s with now := s.now + dt, up := { s.up with rx := .idle, start := start } }) ∧
    (s.now + dt - low.since < 13 * low.tbit → (∃ b, Claims.standing dt s b ∧ ¬ends b) →
      exec (.strayLow dt) s = .refused .overdue)

/-- R2 to R5, R17 to R19, R32 and logs 3 and 17: a low on UP is timed from its falling edge, its length decides
its meaning, and a stuck low ends. -/
def Obligations.LowsOnUpAreTimedAndSorted : Prop :=
  Claims.FallingEdgeOnUpIsTimed ∧ Claims.LengthOfALowDecidesItsMeaning ∧
  Claims.ShortLowInAFrameOnlyEnds ∧ Claims.StuckLowEndsWithoutAFrame

/-- R3, R5, R15 and R25: a low that reaches 13 nominal Tbit in RATE to CHECK abandons the frame: ABORTED, one
FRAME_ABORT event with the address byte or NONE, no counter, and the DOWN relay abandoned if it is LIVE. It
cuts a byte whose start edge came in time and whose rate holds, and covers its stop cell; otherwise the frame
ended before, and the row is refused (log 3). -/
def Sys2Proof.Claims.BreakLengthLowAbortsTheFrame : Prop :=
  ∀ (dt : Time) (low : LowTimer) (s : State), s.inReset = false →
    s.fc.state ∈ [FcState.rate, .address, .length, .data, .check] → s.up.rx = .lowSeen low →
    13 * low.tbit ≤ s.now + dt - low.since →
    let ended : State := { s with
      now := s.now + dt, fc := { s.fc with state := .done, outcome := some .aborted },
      events := s.events.post s.cycle.number
        { code := .frameAbort, subject := .port .up, detail := match s.fc.addr with
            | some b => .byte b
            | none => .none } }
    let cut (b : StartEdge) : Prop :=
      Claims.startInTime s b ∧ Claims.rateHolds dt s b ∧ Claims.covers dt s b low.since
    ((∀ b, Claims.standing dt s b → cut b) → exec (.frameAbort dt) s =
      .next (if s.fc.relay = some .live then ended.abandon s.fc.id else ended)) ∧
    ((∃ b, Claims.standing dt s b ∧ ¬cut b) → exec (.frameAbort dt) s = .refused .overdue)

/-- R5, R6, R7 and R13: a rate byte fits the falling edges that rows have shown: its start edge was in time, its
span is the one to the fourth of them, which comes now where it is early and never where it is late, and at
its stop-cell centre no low covers that cell (log 17). -/
def Sys2Proof.Claims.RateByteFits (dt span : Time) (s : State) : Prop :=
  ∀ b, Claims.standing dt s b → Claims.startInTime s b ∧
    if 100 * span < 616 * s.mgmt.rate.tbit then Claims.seven s b = some span ∨
      (Claims.seven s b = none ∧ b.falls.length = 2 ∧ b.edge + span = s.now + dt)
    else if 784 * s.mgmt.rate.tbit < 100 * span then
      Claims.seven s b = none ∧ 784 * s.mgmt.rate.tbit ≤ 100 * (s.now + dt - b.edge)
    else Claims.seven s b = some span ∧ 19 * span ≤ 14 * (s.now + dt - b.edge) ∧
      ∀ low, s.up.rx = .lowSeen low → 19 * span < 14 * (low.since - b.edge)

/-- R6, R7 and R13: the span of a rate byte, and then its value, are checked, and the first that fails ends the
frame with the error it names; a byte that passes both fixes the measured Tbit. (The stop bit, the step of R7
between them, is a row of its own, FRAMING_ERROR.) `span` is 7 measured Tbit; 6.16 and 7.84 nominal Tbit are
compared a hundredfold. The row's moment is the fourth edge where that came early, the limit where it came
late, and else the stop-cell centre; its start edge came within 3 nominal Tbit of the break (log 29: a centre between two whole twelfths of a µs is
the later one). Where rows
have shown falling edges of the byte, the span is the one to the fourth of them, and no low covers the stop
cell (log 17). An early edge leaves the wire low (log 19). -/
def Obligations.RateByteSpanAndValueAreChecked : Prop :=
  ∀ (dt span : Time) (value : Byte) (s : State), s.inReset = false → s.fc.state = .rate →
    s.fc.relay = none → s.up.rx ≠ .stuck →
    let early := 100 * span < 616 * s.mgmt.rate.tbit
    let late := 784 * s.mgmt.rate.tbit < 100 * span
    let passed := s.now + dt - s.fc.ref
    (if early then passed ≤ 3 * s.mgmt.rate.tbit + span
      else if late then 100 * passed ≤ 1084 * s.mgmt.rate.tbit
      else 14 * passed < 42 * s.mgmt.rate.tbit + 19 * span + 14) →
    Claims.RateByteFits dt span s →
    ∃ fourth : LowTimer,
    ((∀ b, Claims.standing dt s b → Claims.seven s b = none) →
      fourth = { since := s.now + dt, tbit := s.mgmt.rate.tbit }) ∧
    (∀ b low, Claims.standing dt s b → Claims.seven s b ≠ none → s.up.rx = .lowSeen low → fourth = low) ∧
    exec (.rateByte dt span value) s = .next (
      if early then { s with
        now := s.now + dt, fc := { s.fc with state := .done, outcome := some .rate },
        up := { s.up with
          rx := .lowSeen fourth, start := none,
          counts := { s.up.counts with rate := satInc s.up.counts.rate } } }
      else if late then { s with
        now := s.now + dt, fc := { s.fc with state := .done, outcome := some .rate },
        up := { s.up with
          rx := .idle, start := none, counts := { s.up.counts with rate := satInc s.up.counts.rate } } }
      else if value ≠ 0xAA then { s with
        now := s.now + dt, fc := { s.fc with state := .done, outcome := some .format },
        up := { s.up with
          rx := .idle, start := none, counts := { s.up.counts with format := satInc s.up.counts.format } } }
      else { s with
        now := s.now + dt, up := { s.up with rx := .idle, start := none },
        fc := { s.fc with state := .address, span := some span, ref := s.now + dt } })

/-- R3, R5, R7, R13, R14 and R24: the other ends of a frame that the bridge receives. Each line error counts
once and abandons a LIVE relay; an unanswered frame is counted nowhere and abandons none. A window fails at
its limit, 3 nominal Tbit after the break, 3 measured Tbit after a byte's end, or 10 for the first byte of a
response, and only where no start edge that came by then stands (R5, log 17). A row names how long a low that
stands on the wire, or that covers the stop cell, has lasted: it is the one being timed, where there is one.
A byte ends with FRAMING where that low is short, covers the stop-cell centre, 9.5 Tbit after the start edge,
and the start edge was in time. `seven` is 7 of those Tbit: for the rate byte a span that passes the rate step,
to a fourth falling edge before that low or at it. Where the clock ends the frame,
a wire that is low goes on being timed from its falling edge, and the receiver is IDLE otherwise (logs 17 and
19); `elapsed` of RATE_LIMIT is the time since the rate byte's opening edge, which came within 3 nominal Tbit
of the break. -/
def Sys2Proof.Claims.LineFaultsEndTheFrame : Prop :=
  ∀ (dt : Time) (s : State), s.inReset = false →
    s.fc.state ∈ [FcState.rate, .address, .length, .data, .check] → s.up.rx ≠ .stuck →
    let waits := s.fc.answer = some .listen ∧ s.fc.data = []
    let since := s.now + dt - s.fc.ref
    let span := s.fc.span.getD 0
    let twice (moment : Time) : Time := 2 * (moment - s.fc.ref)
    let window := Claims.window s
    let live (t : State) : State := if s.fc.relay = some .live then t.abandon s.fc.id else t
    let timer (length : Time) : LowTimer := match s.up.rx with
      | .lowSeen low => low
      | _ => { since := s.now + dt - length, tbit := s.mgmt.rate.tbit }
    let onWire (length : Time) : Prop := (timer length).since + length = s.now + dt ∧ length ≤ since
    let wire (low : Option Time) : Rx := match low with
      | some length => .lowSeen (timer length)
      | none => .idle
    let inTime (b : StartEdge) : Prop := Claims.standing dt s b ∧ Claims.startInTime s b
    let fails (low : Option Time) : Prop :=
      window ≤ 2 * since ∧ (∀ b, ¬inTime b) ∧ ∀ length, low = some length → window < twice (s.now + dt - length)
    let named (low : Option Time) : Prop := ∀ length, low = some length → onWire length
    -- a low stop cell whose low was short
    (∀ elapsed length seven : Time, onWire length → length < 13 * (timer length).tbit → length ≤ elapsed →
      elapsed ≤ since → twice (s.now + dt - elapsed) ≤ window →
      19 * seven ≤ 14 * elapsed → 14 * (elapsed - length) ≤ 19 * seven →
      (if s.fc.state = .rate then 616 * s.mgmt.rate.tbit ≤ 100 * seven ∧
          100 * seven ≤ 784 * s.mgmt.rate.tbit ∧ seven ≤ elapsed - length
        else seven = span) →
      (∀ b, Claims.standing dt s b → b.edge + elapsed = s.now + dt ∧ Claims.seven s b = some seven) →
      exec (.framingError ⟨dt, elapsed, length⟩) s = .next (live { s with
        now := s.now + dt, fc := { s.fc with state := .done, outcome := some .framing },
        up := { s.up with
          rx := .idle, start := none,
          counts := { s.up.counts with framing := satInc s.up.counts.framing } } })) ∧
    -- a window without a start edge
    (∀ low : Option Time, ¬waits → named low → fails low →
      exec (.gapError ⟨dt, low⟩) s = .next (live { s with
        now := s.now + dt, fc := { s.fc with state := .done, outcome := some .gap },
        up := { s.up with
          rx := wire low, start := none,
          counts := { s.up.counts with gap := satInc s.up.counts.gap } } })) ∧
    -- no response
    (∀ low : Option Time, waits → named low → fails low →
      exec (.unanswered ⟨dt, low⟩) s = .next { s with
        now := s.now + dt, fc := { s.fc with state := .done, outcome := some .unanswered },
        up := { s.up with rx := wire low, start := none } }) ∧
    -- a start edge that came in time and stands keeps the frame open
    (∀ low : Option Time, named low → (∃ b, inTime b) →
      (¬waits → exec (.gapError ⟨dt, low⟩) s = .refused .notDue) ∧
      (waits → exec (.unanswered ⟨dt, low⟩) s = .refused .notDue)) ∧
    -- no fourth edge within 7.84 nominal Tbit of the opening edge
    ∀ (elapsed : Time) (low : Option Time), s.fc.state = .rate → elapsed ≤ since → named low →
      (∀ length, low = some length → length ≤ elapsed) →
      (∀ b, Claims.standing dt s b → b.edge + elapsed = s.now + dt ∧ Claims.seven s b = none) →
      784 * s.mgmt.rate.tbit ≤ 100 * elapsed → since ≤ 3 * s.mgmt.rate.tbit + elapsed →
      exec (.rateLimit dt ⟨elapsed, low⟩) s = .next (live { s with
        now := s.now + dt, fc := { s.fc with state := .done, outcome := some .rate },
        up := { s.up with
          rx := wire low, start := none,
          counts := { s.up.counts with rate := satInc s.up.counts.rate } } })

/-- R5, R7, R13, R14, R24 and R25: how a frame ends by a line error, without an answer, or by a new break. -/
def Obligations.LineErrorsEndTheFrame : Prop :=
  Claims.BreakLengthLowAbortsTheFrame ∧ Claims.LineFaultsEndTheFrame

/-! ### The bytes of a frame -/

namespace Sys2Proof.Claims

/-- A byte of a frame completes in time: its start edge came within 3 measured Tbit of the end of the byte
before it, or within 10 for the first byte of a response that the bridge listens to (R13, R14). A stop-cell
centre between two whole twelfths of a µs is taken at the later one (log 29). Where a row has shown that edge,
the stop-cell centre is reached, and no low covers it (R5, log 17). -/
def onTime (dt : Time) (s : State) : Prop :=
  7 * (s.now + dt - s.fc.ref) <
    (if s.fc.answer = some .listen ∧ s.fc.data = [] then 20 else 13) * s.fc.span.getD 0 + 7 ∧
  ∀ b, standing dt s b → startInTime s b ∧ 19 * s.fc.span.getD 0 ≤ 14 * (s.now + dt - b.edge) ∧
    ∀ low, s.up.rx = .lowSeen low → 19 * s.fc.span.getD 0 < 14 * (low.since - b.edge)

/-- The moment of a byte's stop-cell centre: the wire is high (R17). -/
def atByte (dt : Time) (s : State) : State :=
  { s with now := s.now + dt, up := { s.up with rx := .idle, start := none } }

/-- R24: a line error ends the frame; its counter is one of the six classes. -/
def lineFault (outcome : FrameOutcome) (count : UpCounts → UpCounts) (s : State) : State :=
  let t : State := { s with
    fc := { s.fc with state := .done, outcome := some outcome },
    up := { s.up with counts := count s.up.counts } }
  if s.fc.relay = some .live then t.abandon s.fc.id else t

/-- R46 and R47: UP MISMATCH counts a frame that takes no local action. -/
def mismatched (yes : Bool) (s : State) : State :=
  if yes then { s with up := { s.up with
    counts := { s.up.counts with mismatch := satInc s.up.counts.mismatch } } } else s

/-- R43: the kinds that match a role. -/
def roleFits (kind : TagKind) (role : Role) : Bool :=
  decide (role = .relay ∨ role = .block ∨ (role = .consume ∧ kind = .put) ∨
    (role = .publish ∧ kind = .get) ∨ (role = .marker ∧ kind = .mark))

/-- R47: a PUT on a CONSUME tag whose count differs from the expected length. -/
def lengthUnfit (head : Head) (copy : Option EntryCopy) (count : Nat) : Bool :=
  match head, copy with
  | .tagged .put _, some c =>
    decide (c.entry.role = .consume) && decide (∀ n : Fin 17, c.entry.expected = .exactly n → n.val ≠ count)
  | _, _ => false

/-- R8: a MARK. -/
def isMark : Head → Bool
  | .tagged .mark _ => true
  | _ => false

/-- R48 and R49: a frame is accepted on a tag. -/
def accepted (tag : Tag) (lastSeq : Option Seq) (generation : Byte) (s : State) : State :=
  let r : Runtime := { lastSeq := lastSeq, accepted := s.tags.runtime[tag].accepted + 1,
                       lastGeneration := some generation }
  { s with tags := { s.tags with runtime := s.tags.runtime.set tag r } }

end Sys2Proof.Claims

/-- R21, R43, R45, R46: a PUT, GET or MARK address byte is looked up in the active bank; the frame keeps a
copy of the entry with its unpack list and the generation, forwards as the entry says, and counts a kind
mismatch. -/
def Sys2Proof.Claims.TagAddressByteTakesItsEntryCopy : Prop :=
  ∀ (dt : Time) (kind : TagKind) (tag : Tag) (s : State), s.inReset = false → s.fc.state = .address →
    s.up.rx ≠ .stuck → Claims.onTime dt s →
    let code : Nat := match kind with
      | .put => 0
      | .get => 1
      | .mark => 2
    let value : Byte := BitVec.ofNat 8 (64 * code + tag.val)
    let e := s.tags.active.entries[tag]
    let fits := Claims.roleFits kind e.role
    let t := Claims.mismatched (!fits) (Claims.atByte dt s)
    exec (.addressByte dt value) s = .next (State.joinDown value .opening { t with
      fc := { s.fc with
        state := .length, head := some (.tagged kind tag), addr := some value,
        copy := some {
          entry := e,
          unpack := if e.role = .consume then
            (s.tags.active.descriptors.toList.drop e.unpackFirst.val).take e.unpackCount.val else [],
          generation := s.tags.generation },
        forward := some (if e.forward = .down then .down else .none),
        relay := if e.forward = .down then some .live else none,
        sum := value, noLocal := !fits, ref := s.now + dt } })

/-- R9, R21 and R22: a MGMT address byte. COMMAND to station 15 is held PENDING; a COMMAND or REPLY to the
bridge's own station stays here; any other goes DOWN; an undefined byte is a FORMAT error. -/
def Sys2Proof.Claims.ManagementAddressByteSettlesForward : Prop :=
  ∀ (dt : Time) (s : State), s.inReset = false → s.fc.state = .address → s.up.rx ≠ .stuck →
    Claims.onTime dt s →
    let opened (value : Byte) (f : MgmtFunction) (station : Fin 16) (forward : FrameForward) : State :=
      State.joinDown value .opening { Claims.atByte dt s with
        fc := { s.fc with
          state := .length, head := some (.mgmt f station), addr := some value, copy := none,
          forward := some forward, relay := if forward = .down then some .live else none,
          sum := value, noLocal := false, ref := s.now + dt } }
    let goes (station : Fin 16) : FrameForward :=
      if ∃ n : Fin 15, s.mgmt.station = some n ∧ n.val = station.val then .none else .down
    (∀ station : Fin 16,
      exec (.addressByte dt (BitVec.ofNat 8 (192 + station.val))) s =
        .next (opened (BitVec.ofNat 8 (192 + station.val)) .command station
          (if station = 15 then .pending else goes station))) ∧
    (∀ station : Fin 16, station ≠ 15 →
      exec (.addressByte dt (BitVec.ofNat 8 (208 + station.val))) s =
        .next (opened (BitVec.ofNat 8 (208 + station.val)) .reply station (goes station))) ∧
    ∀ value : Byte, 223 ≤ value.toNat →
      exec (.addressByte dt value) s = .next (Claims.lineFault .format
        (fun c => { c with format := satInc c.format }) (Claims.atByte dt s))

/-- R9, R21, R22, R43, R45 and R46: what an address byte settles, for tagged and management frames. -/
def Obligations.AddressByteSettlesTheForwarding : Prop :=
  Claims.TagAddressByteTakesItsEntryCopy ∧ Claims.ManagementAddressByteSettlesForward

/-- R10, R19, R22, R23 and R47: the length byte of a PUT, MARK or COMMAND. A count above 16, or a MARK whose
count is not 2, is a LENGTH error, and alone that where a PUT's expected length fails too (the model's choice,
log 36); otherwise count and sequence are recorded, a PUT on a CONSUME tag is held to its expected length, and the byte joins the relay queue as BODY. A held broadcast keeps it, and
with count 0 goes DOWN whole. -/
def Sys2Proof.Claims.LengthByteOfAHeadSentFrame : Prop :=
  ∀ (dt : Time) (count : Fin 32) (seq : Sys2Proof.Seq) (head : Head) (s : State), s.inReset = false →
    s.fc.state = .length → s.up.rx ≠ .stuck → Claims.onTime dt s → s.fc.head = some head →
    ((∃ tag, head = .tagged .put tag ∨ head = .tagged .mark tag) ∨ ∃ n, head = .mgmt .command n) →
    let value : Byte := BitVec.ofNat 8 (32 * seq.toNat + count.val)
    let unfit := Claims.lengthUnfit head s.fc.copy count.val
    let t := Claims.mismatched unfit (Claims.atByte dt s)
    let read : State := { t with fc := { s.fc with
      lengthByte := some value, count := some (Fin.ofNat 17 count.val), seq := some seq,
      sum := s.fc.sum + value, noLocal := s.fc.noLocal || unfit, ref := s.now + dt } }
    let waiting (u : State) : State :=
      { u with fc := { u.fc with state := if count = 0 then .check else .data } }
    exec (.lengthByte dt value) s = .next (
      if 16 < count.val ∨ (Claims.isMark head ∧ count ≠ 2) then
        Claims.lineFault .length (fun c => { c with length := satInc c.length }) (Claims.atByte dt s)
      else if s.fc.forward ≠ some .pending then waiting (read.joinDown value .body)
      else if count ≠ 0 then waiting read
      else waiting ((State.joinDown (s.fc.addr.getD 0) .opening { read with
        fc := { read.fc with forward := some .down, relay := some .live } }).joinDown value .body))

/-- R21, R154, R155 and R172: the length byte of a GET or REPLY settles the answer. The bridge answers a
REPLY to its own station from the reply record, and a GET on a PUBLISH tag whose count is the buffer's
size from a snapshot; a size mismatch is counted and listened to; a frame whose relay is LIVE is
relayed; every other is listened to. -/
def Sys2Proof.Claims.LengthByteSettlesTheAnswer : Prop :=
  ∀ (dt : Time) (count : Fin 17) (seq : Sys2Proof.Seq) (head : Head) (s : State), s.inReset = false →
    s.fc.state = .length → s.up.rx ≠ .stuck → Claims.onTime dt s → s.fc.head = some head →
    let value : Byte := BitVec.ofNat 8 (32 * seq.toNat + count.val)
    let read : State := State.joinDown value .turn { Claims.atByte dt s with fc := { s.fc with
      lengthByte := some value, count := some count, seq := some seq, sum := s.fc.sum + value,
      ref := s.now + dt } }
    let answers (data : List Byte) (u : State) : State := { u with
      fc := { u.fc with state := .responding, answer := some .own },
      up := { u.up with resp := data ++ [255 - data.foldl (· + ·) u.fc.sum] } }
    let listens (u : State) : State := { u with fc := { u.fc with
      state := if count = 0 then .check else .data, answer := some .listen } }
    let relays (u : State) : State :=
      if u.fc.forward = some .down ∧ u.fc.relay = some .live then
        { u with fc := { u.fc with state := .relayResponse, answer := some .relay } }
      else listens u
    -- a REPLY to this bridge, and one to another
    (∀ station, head = .mgmt .reply station → s.fc.forward = some .none →
      ∃ data : List Byte, exec (.lengthByte dt value) s = .next (answers data read) ∧
        data.length = count.val ∧
        ∀ i : Nat, i < count.val → data[i]? = some ((replyRecordBytes s.mgmt.reply).getD i 0)) ∧
    (∀ station, head = .mgmt .reply station → s.fc.forward ≠ some .none →
      exec (.lengthByte dt value) s = .next (relays read)) ∧
    -- a GET on a PUBLISH tag, and one on another tag
    (∀ tag c, head = .tagged .get tag → s.fc.copy = some c → c.entry.role = .publish →
      let b := c.entry.buffer
      exec (.lengthByte dt value) s = .next (
        if mapSize s.publish.source s.publish.maps[b] = count.val then
          answers (read.snapshotBytes b) { read with publish := { read.publish with
            records := read.publish.records.set b { read.publish.records[b] with
              snapshot := read.snapshotBytes b, snapshotSeqs := read.mapSeqs read.publish.maps[b] } } }
        else
          let u := Claims.mismatched true read
          listens { u with fc := { u.fc with noLocal := true } })) ∧
    ∀ tag c, head = .tagged .get tag → s.fc.copy = some c → c.entry.role ≠ .publish →
      exec (.lengthByte dt value) s = .next (relays read)

/-- R10: a count of 17 to 31 ends a GET or a REPLY too with a LENGTH error, and no answer is settled. -/
def Sys2Proof.Claims.LengthAboveSixteenEndsGetAndReply : Prop :=
  ∀ (dt : Time) (count : Fin 32) (seq : Sys2Proof.Seq) (head : Head) (s : State), s.inReset = false →
    s.fc.state = .length → s.up.rx ≠ .stuck → Claims.onTime dt s → s.fc.head = some head →
    ((∃ tag, head = .tagged .get tag) ∨ ∃ n, head = .mgmt .reply n) → 16 < count.val →
    exec (.lengthByte dt (BitVec.ofNat 8 (32 * seq.toNat + count.val))) s =
      .next (Claims.lineFault .length (fun c => { c with length := satInc c.length }) (Claims.atByte dt s))

/-- R10, R19, R21 to R23, R47, R154, R155 and R172: what a length byte settles (a LENGTH error before a length
mismatch of the same byte: the model's choice, log 36). -/
def Obligations.LengthByteSettlesTheFrame : Prop :=
  Claims.LengthByteOfAHeadSentFrame ∧ Claims.LengthByteSettlesTheAnswer ∧
  Claims.LengthAboveSixteenEndsGetAndReply

/-- R11, R22 and R23: a data byte is appended to the data list and joins the relay queue as BODY; the
count-th one leads to CHECK. A group mask of a MARK that names more than G0-G3 is a FORMAT error. Data
byte 0 of a held broadcast settles it: it stays here at an unassigned bridge if it is ASSIGN_STATION
(0x06), and goes DOWN with its held bytes otherwise. -/
def Obligations.DataByteIsAppendedAndForwarded : Prop :=
  ∀ (dt : Time) (value : Byte) (s : State), s.inReset = false → s.fc.state = .data → s.up.rx ≠ .stuck →
    Claims.onTime dt s →
    let badMask := (∃ tag, s.fc.head = some (.tagged .mark tag)) ∧ s.fc.data.length = 1 ∧ 16 ≤ value.toNat
    let appended (t : State) : State :=
      State.joinDown value .body { t with fc := { t.fc with
        data := t.fc.data ++ [value], sum := t.fc.sum + value, ref := s.now + dt } }
    let counted (u : State) : State :=
      if s.fc.data.length + 1 < (s.fc.count.getD 0).val then u
      else { u with fc := { u.fc with state := .check } }
    let base := Claims.atByte dt s
    let released : State := (State.joinDown (s.fc.addr.getD 0) .opening { base with
      fc := { s.fc with forward := some .down, relay := some .live } }).joinDown (s.fc.lengthByte.getD 0) .body
    (badMask → exec (.dataByte dt value) s = .next (Claims.lineFault .format
      (fun c => { c with format := satInc c.format }) base)) ∧
    (¬badMask → s.fc.forward ≠ some .pending →
      exec (.dataByte dt value) s = .next (counted (appended base))) ∧
    (¬badMask → s.fc.forward = some .pending → s.mgmt.station = none → value = 0x06 →
      exec (.dataByte dt value) s = .next (counted (appended { base with
        fc := { s.fc with forward := some .none } }))) ∧
    (¬badMask → s.fc.forward = some .pending → ¬(s.mgmt.station = none ∧ value = 0x06) →
      exec (.dataByte dt value) s = .next (counted (appended released)))

namespace Sys2Proof.Claims

/-- R20 and R23: the state in which a frame whose check byte agrees has passed, with the postings of that
moment left to do. The byte joins the relay queue as END, before the frame's effect (log 34). The order of
those postings is a draw (log 10). -/
def agreed (dt : Time) (s : State) : State :=
  let joined := (atByte dt s).joined (255 - s.fc.sum) .ending
  { counted 0 { joined with fc := { joined.fc with state := .done, outcome := some .complete } } with
    draws := s.draws + 1 }

/-- R27, R37, R39 and R183: the ports' own postings at a check byte: a RELAY_OVERRUN and a LINE_BACK, where they
are due, in either order. -/
def checkPosts (posts : List Posting) (s : State) : Prop :=
  posts = overrunPosts s ++ backPosts s ∨ posts = backPosts s ++ overrunPosts s

end Sys2Proof.Claims

/-- R12, R23, R24 and R183: a check byte that differs from 255 minus the frame's sum is a CHECK error, and is
not forwarded; one that agrees joins the relay queue as END and the frame passes, with a RELAY_OVERRUN
and a LINE_BACK of that moment in either order (log 10). A frame marked as taking no local action, a REPLY,
and a COMMAND for another station only pass. -/
def Sys2Proof.Claims.CheckByteDecidesThePass : Prop :=
  ∀ (dt : Time) (value : Byte) (s : State), s.inReset = false → s.fc.state = .check → s.up.rx ≠ .stuck →
    Claims.onTime dt s →
    (value ≠ 255 - s.fc.sum → exec (.checkByte dt value) s = .next (Claims.lineFault .check
      (fun c => { c with check := satInc c.check }) (Claims.atByte dt s))) ∧
    (value = 255 - s.fc.sum →
      s.fc.noLocal = true ∨ (∃ n, s.fc.head = some (.mgmt .reply n)) ∨
        (∃ n, s.fc.head = some (.mgmt .command n) ∧ n ≠ 15 ∧ s.fc.forward ≠ some .none) →
      ∃ posts : List Posting, Claims.checkPosts posts s ∧
        exec (.checkByte dt value) s = .next ((Claims.agreed dt s).postAll posts))

/-- R20, R39, R43, R48 and R49: a PUT that fits its CONSUME entry is a repeat if its sequence is the tag's last one,
and is otherwise recorded and handed to the apply engine; a frame on a RELAY or BLOCK tag is accepted
without a sequence test; a MARK on a MARKER tag is accepted and handled, and the ports' own postings of that
moment meet those of the restart that it may make (log 10). -/
def Obligations.PassingTagFrameIsJudged : Prop :=
  ∀ (dt : Time) (tag : Tag) (kind : TagKind) (c : EntryCopy) (seq : Sys2Proof.Seq) (s : State),
    s.inReset = false → s.fc.state = .check → s.up.rx ≠ .stuck → Claims.onTime dt s →
    s.fc.head = some (.tagged kind tag) → s.fc.copy = some c → s.fc.seq = some seq → s.fc.noLocal = false →
    let value := 255 - s.fc.sum
    let last := s.tags.runtime[tag].lastSeq
    ∃ posts : List Posting, Claims.checkPosts posts s ∧
    let p := (Claims.agreed dt s).postAll posts
    (kind = .put → c.entry.role = .consume → last = some seq →
      exec (.checkByte dt value) s = .next { p with up := { p.up with
        counts := { p.up.counts with repeats := satInc p.up.counts.repeats } } }) ∧
    (kind = .put → c.entry.role = .consume → last ≠ some seq →
      exec (.checkByte dt value) s =
        .next ((Claims.accepted tag (some seq) c.generation p).applyPut tag s.fc.data c)) ∧
    (c.entry.role = .relay ∨ c.entry.role = .block →
      exec (.checkByte dt value) s = .next (Claims.accepted tag last c.generation p)) ∧
    (kind = .mark → c.entry.role = .marker →
      exec (.checkByte dt value) s =
        .next ((Claims.accepted tag last c.generation (Claims.agreed dt s)).handleMark
          (s.fc.data.getD 0 0) ((s.fc.data.getD 1 0).setWidth 4) c.entry posts))

/-- R165, R166 and R173: a COMMAND frame that passes and is broadcast, or is addressed to this bridge,
reaches the management unit with its sequence and its data bytes at its check byte, after the whole of
its pass. A repeat of the last sequence only counts, at the row of the command as at the check byte. The END
byte joins the relay queue before the command's effect: R23 gives no order, and for a broadcast SOFT_RESET
that meets 32 entries that is the model's choice (DESIGN CHOICE, log 34). -/
def Sys2Proof.Claims.PassingCommandFrameIsExecuted : Prop :=
  ∀ (dt : Time) (station : Fin 16) (seq : Sys2Proof.Seq) (s : State), s.inReset = false →
    s.fc.state = .check → s.up.rx ≠ .stuck → Claims.onTime dt s →
    s.fc.head = some (.mgmt .command station) → s.fc.seq = some seq → s.fc.noLocal = false →
    station = 15 ∨ s.fc.forward = some .none →
    let value := 255 - s.fc.sum
    ∃ posts : List Posting, Claims.checkPosts posts s ∧
    let p := (Claims.agreed dt s).postAll posts
    exec (.checkByte dt value) s = .next (
      if s.mgmt.lastSeq = some seq then { p with up := { p.up with
        counts := { p.up.counts with repeats := satInc p.up.counts.repeats } } }
      else p.takeCommand (if station = 15 then .broadcast else .own) (some s.fc.id) seq s.fc.data)

/-- R12, R23, R24, R165, R166 and R173: the check byte decides the pass, and a COMMAND frame that passes is executed,
after its END byte has joined the relay queue (the model's choice, log 34). -/
def Obligations.CheckByteDecidesAndExecutes : Prop :=
  Claims.CheckByteDecidesThePass ∧ Claims.PassingCommandFrameIsExecuted

/-! ### The relay queue -/

/-- R26, R27, R30 and R32: a head-sent byte of a frame whose relay is LIVE joins the queue at its tail; a DOWN
port that waits for it begins it at once. With 32 entries it does not join: the frame's relay is abandoned
and RELAY_OVERRUN is posted. A frame whose relay is not LIVE places nothing. While DOWN is STUCK a frame
whose OPEN entry joins an empty queue, and so stands at its head, is abandoned at once and counted in DOWN
CONFLICT, without an event. -/
def Obligations.HeadSentByteJoinsTheRelayQueue : Prop :=
  ∀ (value : Byte) (marker : Marker) (s : State),
    let entry : RelayEntry := { value := value, marker := marker, frame := s.fc.id }
    let queued : State := { s with relay := s.relay ++ [entry] }
    let t := s.joined value marker
    s.joinDown value marker = t.postAll (Claims.overrunPosts s) ∧
    (s.fc.relay ≠ some .live → t = s) ∧
    (s.fc.relay = some .live → s.relay.length < 32 → s.down.state ≠ .stuck →
      ¬(s.down.state = .sending ∧ s.down.cur = none) → t = queued) ∧
    (s.fc.relay = some .live → s.relay = [] → s.down.state = .sending → s.down.cur = none →
      s.down.frame = s.fc.id → t = { s with down := { s.down with since := s.now, cur := some entry } }) ∧
    (s.fc.relay = some .live → 32 ≤ s.relay.length → t = s.abandon s.fc.id) ∧
    (s.fc.relay = some .live → s.relay = [] → s.down.state = .stuck → marker = .opening →
      t = State.abandon s.fc.id { s with down := { s.down with
        counts := { s.down.counts with conflict := satInc s.down.counts.conflict } } }) ∧
    (s.fc.relay = some .live → s.relay.length < 32 → s.down.state = .stuck →
      (∀ e, queued.relay.head? = some e → e.marker ≠ .opening) → t = queued)

/-- R28: abandoning a frame's relay removes its entries and keeps the others in order, sets its relay to
DROPPED, ends a context in RELAY_RESPONSE with RELAY_FAILED, completes a break or byte in progress on DOWN,
and ends a delimiter, a wait or a listening at once. Where the port listened or read, it keeps since when, for
a low that is under way (the model's own field, log 33). Nothing else changes. -/
def Obligations.AbandonedRelayLeavesTheQueue : Prop :=
  ∀ (n : Nat) (s : State),
    let t := s.abandon n
    t = { s with relay := t.relay, fc := t.fc, down := t.down } ∧
    t.relay = s.relay.filter (fun e => decide (e.frame ≠ n)) ∧
    (s.fc.id ≠ n → t.fc = s.fc) ∧
    (s.fc.id = n → s.fc.state ≠ .relayResponse →
      t.fc = { s.fc with relay := s.fc.relay.map fun _ => .dropped }) ∧
    (s.fc.id = n → s.fc.state = .relayResponse →
      t.fc = { s.fc with
        relay := s.fc.relay.map fun _ => .dropped, state := .done, outcome := some .relayFailed }) ∧
    (s.down.frame ≠ n ∨ s.down.state ∈ [DownState.idle, .foreignLow, .stuck] → t.down = s.down) ∧
    (s.down.frame = n →
      s.down.state ∈ [DownState.sendingBreak, .rate] ∨ (s.down.state = .sending ∧ s.down.cur ≠ none) →
      t.down = { s.down with abandoned := true }) ∧
    (s.down.frame = n →
      s.down.state = .delimiter ∨ (s.down.state = .sending ∧ s.down.cur = none) →
      t.down = { s.down with state := .idle }) ∧
    (s.down.frame = n → s.down.state = .listen ∨ s.down.state = .receive →
      t.down = { s.down with state := .idle, heardFrom := some s.down.since })

/-! ### Responses on UP -/

/-- R33: the bridge's own response begins 2 measured Tbit after the end of the length byte (2.5 after its
stop-cell centre), each later byte follows directly after the stop bit of the one before, ten Tbit after
its start, and the last byte is the check byte. -/
def Sys2Proof.Claims.OwnResponseIsSentByteByByte : Prop :=
  ∀ (dt : Time) (b : Byte) (rest : List Byte) (s : State), s.inReset = false → s.fc.state = .responding →
    s.up.resp = b :: rest →
    let sending : State := { s with
      now := s.now + dt,
      up := { s.up with
        resp := rest,
        tx := some { value := b, marker := if rest = [] then .ending else .body, since := s.now + dt,
                     span := s.fc.span.getD 0 } } }
    (s.up.tx = none → 5 * s.fc.span.getD 0 ≤ 14 * (s.now + dt - s.fc.ref) →
      exec (.ownResponseStart dt) s = .next sending) ∧
    ∀ sent : UpByte, s.up.tx = some sent → sent.marker ≠ .ending →
      10 * sent.span ≤ 7 * (s.now + dt - sent.since) →
      exec (.upByteSent dt) s = .next sending

/-- R35: in RELAY_RESPONSE the byte at the queue head follows directly after the byte in progress; with an
empty queue the port waits, or ends the frame RELAY_FAILED if the downstream response ended early; a
relayed check byte that was not found in agreement ends it RELAY_FAILED when it has been sent. -/
def Sys2Proof.Claims.RelayedResponseFollowsTheQueue : Prop :=
  ∀ (dt : Time) (sent : UpByte) (s : State), s.inReset = false → s.fc.state = .relayResponse →
    s.up.tx = some sent → 10 * sent.span ≤ 7 * (s.now + dt - sent.since) →
    (sent.marker = .ending → s.fc.relayAgrees ≠ some true) →
    let later : State := { s with now := s.now + dt }
    let failed : State := { later with
      fc := { s.fc with state := .done, outcome := some .relayFailed }, up := { s.up with tx := none } }
    exec (.upByteSent dt) s = .next (
      if sent.marker = .ending then failed
      else match s.relay with
        | [] => if s.fc.relayEnded then failed else { later with up := { s.up with tx := none } }
        | e :: rest => { later with
            relay := rest,
            up := { s.up with tx := some { value := e.value, marker := e.marker, since := s.now + dt,
                                           span := s.fc.span.getD 0 } } })

/-- R33: the UP port drives the byte in progress, releases the wire while there is none, and never starts a
break. -/
def Sys2Proof.Claims.UpDriverSendsTheByteInProgress : Prop :=
  ∀ s : State, (∀ sent, s.up.tx = some sent → s.upDrive = .byte sent.value) ∧
    (s.up.tx = none → s.upDrive = .released) ∧ s.upDrive ≠ .low

/-- R33 and R35: own and relayed responses on UP, and what the UP port drives. -/
def Obligations.ResponsesAreSentByteByByte : Prop :=
  Claims.OwnResponseIsSentByteByByte ∧ Claims.RelayedResponseFollowsTheQueue ∧
  Claims.UpDriverSendsTheByteInProgress

/-- R20, R33, R46, R49 and R158: a response whose check byte reads back high passes. An own publish response
sets the last-served sequences of its map's positions, steps the served count and records SERVED; a GET
that answers is accepted on its tag; a REPLY, and a relayed GET that takes no local action, only pass. -/
def Obligations.DeliveredResponsePassesAndIsRecorded : Prop :=
  ∀ (dt : Time) (sent : UpByte) (s : State), s.inReset = false → s.up.tx = some sent →
    sent.marker = .ending → 19 * sent.span ≤ 14 * (s.now + dt - sent.since) →
    s.fc.state = .responding ∨ (s.fc.state = .relayResponse ∧ s.fc.relayAgrees = some true) →
    let p := Claims.passed dt { s with
      fc := { s.fc with state := .done, outcome := some .sent }, up := { s.up with tx := none, resp := [] } }
    (∀ station, s.fc.head = some (.mgmt .reply station) → exec (.responseDelivered dt) s = .next p) ∧
    (∀ tag c, s.fc.head = some (.tagged .get tag) → s.fc.copy = some c → s.fc.noLocal = true →
      exec (.responseDelivered dt) s = .next p) ∧
    ∀ tag c, s.fc.head = some (.tagged .get tag) → s.fc.copy = some c → s.fc.noLocal = false →
      let a := Claims.accepted tag s.tags.runtime[tag].lastSeq c.generation p
      (s.fc.state = .relayResponse → exec (.responseDelivered dt) s = .next a) ∧
      (s.fc.state = .responding → ∃ served : Vector (Option Byte) 8,
        let r := s.publish.records[c.entry.buffer]
        exec (.responseDelivered dt) s = .next { a with publish := { a.publish with
          records := a.publish.records.set c.entry.buffer { r with
            served := served, servedCount := r.servedCount + 1, outcome := some .served } } } ∧
        ∀ i : Fin 8, served[i] = (if h : i.val < r.snapshotSeqs.length then r.snapshotSeqs[i.val]
          else r.served[i]))

/-- R36 and R159: a low on UP that the bridge does not drive, while it is the responder, ends the response (from
the length byte's stop-cell centre on, where R33 says from that byte's end: the model's choice, log 35):
CONFLICT, one UP CONFLICT, one UP_CONFLICT event, the low timed from its falling edge. An own publish
response records CONFLICT in its buffer, whose last-served sequences stay; a relayed one is abandoned. -/
def Obligations.UpConflictEndsTheResponse : Prop :=
  ∀ (dt : Time) (s : State), s.inReset = false →
    let ended : State := { s with
      now := s.now + dt, fc := { s.fc with state := .done, outcome := some .conflict },
      up := { s.up with
        tx := none, resp := [], rx := .lowSeen { since := s.now + dt, tbit := s.mgmt.rate.tbit },
        counts := { s.up.counts with conflict := satInc s.up.counts.conflict } },
      events := s.events.post s.cycle.number
        { code := .upConflict, subject := .port .up, detail := match s.fc.addr with
          | some b => .byte b
          | none => .none } }
    (s.fc.state = .relayResponse → exec (.upConflict dt) s = .next (ended.abandon s.fc.id)) ∧
    (∀ station, s.fc.state = .responding → s.fc.head = some (.mgmt .reply station) →
      exec (.upConflict dt) s = .next ended) ∧
    ∀ tag c, s.fc.state = .responding → s.fc.head = some (.tagged .get tag) → s.fc.copy = some c →
      exec (.upConflict dt) s = .next { ended with publish := { s.publish with
        records := s.publish.records.set c.entry.buffer
          { s.publish.records[c.entry.buffer] with outcome := some .conflict } } }

/-! ### The DOWN port -/

/-- R29: an OPEN entry at the queue head of an IDLE port with a high wire starts a break of 14 nominal Tbit,
which fixes the frame's DOWN Tbit; a delimiter of 2 follows, and then the rate byte. -/
def Sys2Proof.Claims.DownPortRegeneratesTheFrameStart : Prop :=
  ∀ (dt : Time) (s : State), s.inReset = false →
    (∀ e rest, s.down.state = .idle → s.down.low = none → s.relay = e :: rest → e.marker = .opening →
      exec (.regenerationStart dt) s = .next { s with
        now := s.now + dt,
        down := { s.down with
          state := .sendingBreak, cur := none, since := s.now + dt, tbit := s.mgmt.rate.tbit,
          frame := e.frame, addr := e.value, abandoned := false, heardFrom := none } }) ∧
    (s.down.state = .sendingBreak → 14 * s.down.tbit ≤ s.now + dt - s.down.since →
      exec (.downBreakEnd dt) s = .next { s with
        now := s.now + dt,
        down := if s.down.abandoned then { s.down with state := .idle, cur := none, abandoned := false }
          else { s.down with state := .delimiter, since := s.now + dt } }) ∧
    (s.down.state = .delimiter → 2 * s.down.tbit ≤ s.now + dt - s.down.since →
      exec (.delimiterEnd dt) s = .next { s with
        now := s.now + dt, down := { s.down with state := .rate, since := s.now + dt } })

/-- R28, R30 and R34: at the end of a byte on DOWN, the frame is complete if the byte was the END entry,
listens for its response if it was the TURN entry, and otherwise the next entry of the same frame
begins at once, or the port waits. A byte of an abandoned frame ends that frame, which is not counted (R41,
log 18). -/
def Sys2Proof.Claims.DownPortSendsEntryAfterEntry : Prop :=
  ∀ (dt : Time) (s : State), s.inReset = false → 10 * s.down.tbit ≤ s.now + dt - s.down.since →
    let later : State := { s with now := s.now + dt }
    let idle : DownPort := { s.down with state := .idle, cur := none, abandoned := false }
    let after : State :=
      if s.down.abandoned then { later with down := idle }
      else match s.relay with
        | [] => { later with down := { s.down with state := .sending, cur := none } }
        | e :: rest =>
          if e.frame = s.down.frame then { later with
            relay := rest, down := { s.down with state := .sending, cur := some e, since := s.now + dt } }
          else { later with down := { s.down with state := .sending, cur := none } }
    (s.down.state = .rate → s.down.cur = none → exec (.downByteSent dt) s = .next after) ∧
    ∀ e, s.down.state = .sending → s.down.cur = some e →
      (e.marker = .opening ∨ e.marker = .body → exec (.downByteSent dt) s = .next after) ∧
      (e.marker = .ending → exec (.downByteSent dt) s = .next { later with
        down := if s.down.abandoned then idle else { idle with
          counts := { s.down.counts with framesOk := satInc s.down.counts.framesOk } } }) ∧
      (e.marker = .turn → exec (.downByteSent dt) s = .next { later with
        down := if s.down.abandoned then idle else { s.down with
          state := .listen, cur := none, since := s.now + dt, respLeft := e.value.toNat % 32,
          respSum := s.down.addr + e.value } })

/-- R18, R29 to R32, R34 and R35: the DOWN port drives the wire low in BREAK, sends 0xAA in RATE and the byte
in progress in SENDING, and releases the wire in every other state and while it waits for the next entry. -/
def Sys2Proof.Claims.DownDriverFollowsThePortState : Prop :=
  ∀ s : State,
    (s.down.state = .sendingBreak → s.downDrive = .low) ∧
    (s.down.state = .rate → s.downDrive = .byte 0xAA) ∧
    (s.down.state = .sending → (∀ e, s.down.cur = some e → s.downDrive = .byte e.value) ∧
      (s.down.cur = none → s.downDrive = .released)) ∧
    (s.down.state ∈ [DownState.idle, .foreignLow, .stuck, .delimiter, .listen, .receive] →
      s.downDrive = .released)

/-- R18, R28 to R32, R34 and R35: the DOWN port regenerates a frame start and sends entry after entry, and what
it drives meanwhile. -/
def Obligations.DownPortRegeneratesTheRelayQueue : Prop :=
  Claims.DownPortRegeneratesTheFrameStart ∧ Claims.DownPortSendsEntryAfterEntry ∧
  Claims.DownDriverFollowsThePortState

/-- R31: a foreign low while the port sends a delimiter, the rate byte or queued bytes releases the wire at
once, abandons the frame's relay, counts and posts the conflict, and is timed as a foreign low (from this
moment, the model's choice where it began under the port's own low, log 32). -/
def Sys2Proof.Claims.DownConflictAbandonsTheFrame : Prop :=
  ∀ (dt : Time) (s : State), s.inReset = false →
    s.down.state ∈ [DownState.delimiter, .rate, .sending] → ∃ t : State,
    exec (.downConflict dt) s = .next t ∧
    t = { s with now := s.now + dt, relay := t.relay, fc := t.fc, down := t.down, events := t.events } ∧
    t.relay = s.relay.filter (fun e => decide (e.frame ≠ s.down.frame)) ∧
    t.fc = (if s.fc.id ≠ s.down.frame then s.fc
      else if s.fc.state = .relayResponse then { s.fc with
        relay := s.fc.relay.map fun _ => .dropped, state := .done, outcome := some .relayFailed }
      else { s.fc with relay := s.fc.relay.map fun _ => .dropped }) ∧
    t.down = { s.down with
      state := .foreignLow, cur := none, abandoned := false,
      low := some { since := s.now + dt, tbit := s.mgmt.rate.tbit },
      counts := { s.down.counts with conflict := satInc s.down.counts.conflict } } ∧
    t.events = s.events.post s.cycle.number
      { code := .downConflict, subject := .port .down, detail := .byte s.down.addr }

/-- R3, R18, R28 and R32: a low at the IDLE port is timed from its falling edge: one that begins now (or that
began under the break of an abandoned frame: the model's choice, log 32), or one that was under way when a
response was given up, which began no earlier than the window then running (log 33). A low that an IDLE port
times already keeps its falling edge, and meets the same ends (log 16). It is ignored if it ends before 13 nominal Tbit, counted
and posted as DOWN_BREAK if it ends by 200, and makes the port stuck past 200. Then every frame whose OPEN
entry stands at the queue head is abandoned and counted in DOWN CONFLICT, without an event. FOREIGN_LOW_IGNORED
from 13 nominal Tbit on, and DOWN_BREAK outside 13 to 200, are refused (the model's choice, log 3). -/
def Sys2Proof.Claims.ForeignLowOnDownIsTimed : Prop :=
  ∀ (dt : Time) (s : State), s.inReset = false →
    (∀ length : Time, s.down.state = .idle → s.down.low = none →
      length = 0 ∨ (∃ t, s.down.heardFrom = some t ∧ t + length ≤ s.now + dt) →
      exec (.foreignLow ⟨dt, length⟩) s = .next { s with
        now := s.now + dt,
        down := { s.down with
          state := .foreignLow, heardFrom := none,
          low := some { since := s.now + dt - length, tbit := s.mgmt.rate.tbit } } }) ∧
    (∀ (length : Time) (low : LowTimer), s.down.state = .idle → s.down.low = some low →
      low.since + length = s.now + dt →
      exec (.foreignLow ⟨dt, length⟩) s = .next { s with
        now := s.now + dt,
        down := { s.down with state := .foreignLow, heardFrom := none, low := some low } }) ∧
    ∀ low : LowTimer, s.down.state = .foreignLow ∨ s.down.state = .idle → s.down.low = some low →
      let n := s.now + dt - low.since
      exec (.foreignLowIgnored dt) s = (if n < 13 * low.tbit then
        .next { s with now := s.now + dt, down := { s.down with state := .idle, low := none } }
        else .refused .outOfPlace) ∧
      exec (.downBreak dt) s = (if 13 * low.tbit ≤ n ∧ n ≤ 200 * low.tbit then
        .next { s with
          now := s.now + dt,
          down := { s.down with
            state := .idle, low := none,
            counts := { s.down.counts with foreign := satInc s.down.counts.foreign } },
          events := s.events.post s.cycle.number
            { code := .downBreak, subject := .port .down, detail := .none } }
        else .refused .outOfPlace) ∧
      (200 * low.tbit < n →
        let stuck : State := { s with
          now := s.now + dt, down := { s.down with state := .stuck, low := none },
          events := s.events.post s.cycle.number
            { code := .lineStuck, subject := .port .down, detail := .none } }
        ((∀ e, s.relay.head? = some e → e.marker ≠ .opening) →
          exec (.lineStuck dt .down) s = .next stuck) ∧
        (∀ e rest, s.relay = e :: rest → e.marker = .opening →
          (∀ e', (rest.filter fun x => decide (x.frame ≠ e.frame)).head? = some e' → e'.marker ≠ .opening) →
          exec (.lineStuck dt .down) s = .next (State.abandon e.frame { stuck with down := { stuck.down with
            counts := { s.down.counts with conflict := satInc s.down.counts.conflict } } })) ∧
        ∃ t : State, exec (.lineStuck dt .down) s = .next t ∧ t.events = stuck.events ∧
          t.down.state = .stuck ∧ ∀ e, t.relay.head? = some e → e.marker ≠ .opening)

/-- R18, R31 and R32: a conflict on DOWN, and foreign lows there. -/
def Obligations.DownLineDisturbances : Prop :=
  Claims.DownConflictAbandonsTheFrame ∧ Claims.ForeignLowOnDownIsTimed

/-- R34: no response start within 12 DOWN Tbit: RESP_TIMEOUT is posted and counted, the port is IDLE, and the
frame that waits in RELAY_RESPONSE ends UNANSWERED. -/
def Sys2Proof.Claims.ResponseTimeoutEndsTheRelay : Prop :=
  ∀ (dt : Time) (s : State), s.inReset = false → s.down.state = .listen →
    12 * s.down.tbit ≤ s.now + dt - s.down.since →
    exec (.respTimeout dt) s = .next { s with
      now := s.now + dt,
      fc := if s.fc.id = s.down.frame ∧ s.fc.state = .relayResponse then
        { s.fc with state := .done, outcome := some .unanswered } else s.fc,
      down := { s.down with
        state := .idle, cur := none, abandoned := false,
        counts := { s.down.counts with timeout := satInc s.down.counts.timeout } },
      events := s.events.post s.cycle.number
        { code := .respTimeout, subject := .port .down, detail := .byte s.down.addr } }

/-- R34 and R35: a response byte read on DOWN, whose start edge came within 12 DOWN Tbit of the TURN entry's end or
within 3 of the byte before it (log 29), is added to the running sum and relayed: it begins on UP at once if the
UP port is not sending, and joins the queue otherwise. The check byte is compared, counted, relayed in
either case, and returns the port to IDLE. -/
def Obligations.DownResponseBytesAreRelayed : Prop :=
  ∀ (dt : Time) (value : Byte) (s : State), s.inReset = false → s.relay.length < 32 →
    (s.down.state = .listen ∧ 2 * (s.now + dt - s.down.since) < 43 * s.down.tbit + 2) ∨
      (s.down.state = .receive ∧ s.now + dt - s.down.since ≤ 13 * s.down.tbit) →
    let relayed (marker : Marker) (t : State) : State :=
      if s.up.tx ≠ none then
        { t with relay := s.relay ++ [{ value := value, marker := marker, frame := s.fc.id }] }
      else match s.relay with
        | [] => { t with up := { s.up with tx := some {
            value := value, marker := marker, since := s.now + dt, span := s.fc.span.getD 0 } } }
        | e :: rest => { t with
            relay := rest ++ [{ value := value, marker := marker, frame := s.fc.id }],
            up := { s.up with tx := some {
              value := e.value, marker := e.marker, since := s.now + dt, span := s.fc.span.getD 0 } } }
    let agrees : Bool := decide (value = 255 - s.down.respSum)
    (0 < s.down.respLeft → exec (.downResponseByte dt value) s = .next (relayed .body { s with
      now := s.now + dt,
      down := { s.down with
        state := .receive, since := s.now + dt, respLeft := s.down.respLeft - 1,
        respSum := s.down.respSum + value } })) ∧
    (s.down.respLeft = 0 → exec (.downResponseCheck dt value) s = .next (relayed .ending { s with
      now := s.now + dt, fc := { s.fc with relayAgrees := some agrees },
      down := { s.down with
        state := .idle, cur := none, abandoned := false,
        counts := if agrees then { s.down.counts with framesOk := satInc s.down.counts.framesOk }
          else { s.down.counts with check := satInc s.down.counts.check } } }))

/-- R3 and R35: a low stop cell, a gap of 3 Tbit or a low of 13 nominal Tbit ends the relay early. The first two
count; the port is IDLE at once; with an empty queue the UP frame ends RELAY_FAILED, and otherwise its
entries are still to be sent. `length` is how long the low has lasted. A short one covers the stop cell, 9.5
DOWN Tbit after the start edge of its byte, which came `elapsed` ago and within the window that was
running; at 13 nominal Tbit the low is a break, and the port goes on timing it from its start (log 16). -/
def Sys2Proof.Claims.DownResponseFaultsEndTheRelay : Prop :=
  ∀ (dt : Time) (s : State), s.inReset = false →
    let ended (low : Option LowTimer) (counts : DownCounts) : State := { s with
      now := s.now + dt,
      fc := if s.fc.state = .relayResponse ∧ s.relay = [] then
        { s.fc with relayEnded := true, state := .done, outcome := some .relayFailed }
        else { s.fc with relayEnded := true },
      down := { s.down with state := .idle, low := low, counts := counts } }
    let reads := s.down.state = .listen ∨ s.down.state = .receive
    let since := s.now + dt - s.down.since
    let window := (if s.down.state = .listen then 24 else 7) * s.down.tbit
    (∀ elapsed length : Time, reads → length < 13 * s.mgmt.rate.tbit → length ≤ elapsed → elapsed ≤ since →
      2 * since ≤ window + 2 * elapsed → 19 * s.down.tbit ≤ 2 * elapsed →
      2 * elapsed ≤ 19 * s.down.tbit + 2 * length →
      exec (.downResponseFraming ⟨dt, elapsed, length⟩) s = .next (ended s.down.low
        { s.down.counts with framing := satInc s.down.counts.framing })) ∧
    (s.down.state = .receive → 7 * s.down.tbit ≤ 2 * (s.now + dt - s.down.since) →
      exec (.downResponseGap dt) s = .next (ended s.down.low
        { s.down.counts with gap := satInc s.down.counts.gap })) ∧
    (∀ length : Time, reads → length ≤ since → 2 * since ≤ window + 19 * s.down.tbit + 2 * length →
      13 * s.mgmt.rate.tbit ≤ length →
      exec (.downResponseBreak ⟨dt, length⟩) s = .next (ended
        (some { since := s.now + dt - length, tbit := s.mgmt.rate.tbit }) s.down.counts))

/-- R34 and R35: what ends a relayed response early. -/
def Obligations.DownResponseEndings : Prop :=
  Claims.ResponseTimeoutEndsTheRelay ∧ Claims.DownResponseFaultsEndTheRelay

/-- R37, R39, R109 and R117: the quiet timer expires. The state becomes EXPIRED, LINE_QUIET is posted with the
limit, and every group with quiet trip yes takes the quiet cause. -/
def Sys2Proof.Claims.ExpiryPostsLineQuietAndTrips : Prop :=
  ∀ (dt : Time) (s : State), s.inReset = false → s.up.quiet = .running →
    s.mgmt.quietLimit.toNat * 120000 ≤ s.now + dt - s.up.quietSince → ∃ t : State,
    exec (.lineQuiet dt) s = .next t ∧
    t = { s with
      now := s.now + dt, up := { s.up with quiet := .expired }, groups := t.groups, chans := t.chans,
      events := t.events, draws := t.draws } ∧
    Claims.causeTaken (fun g => s.groups[g].quietTrip) .quiet
      [{ code := .lineQuiet, subject := .port .up, detail := .byte s.mgmt.quietLimit }] s t

/-- R63 with R37: an expiry that meets a frame's pass at one moment and comes after it. What the frame staged is
emptied by the groups' entry into FALLBACK; the timer stays as the pass restarted it, and LINE_BACK follows
LINE_QUIET, as it does where the expiry comes first (DEDUCED, log 30). -/
def Sys2Proof.Claims.ExpiryThatMeetsAPassComesAfterIt : Prop :=
  ∀ (dt : Time) (limit : Byte) (s : State), s.inReset = false →
    s.up.met = some { moment := s.now + dt, limit := limit } →
    (s.up.quiet = .running → s.now + dt - s.up.quietSince < s.mgmt.quietLimit.toNat * 120000) → ∃ t : State,
    exec (.lineQuiet dt) s = .next t ∧
    t = { s with
      now := s.now + dt, up := { s.up with met := none }, groups := t.groups, chans := t.chans,
      events := t.events, draws := t.draws } ∧
    Claims.causeTaken (fun g => s.groups[g].quietTrip) .quiet
      [{ code := .lineQuiet, subject := .port .up, detail := .byte limit },
       { code := .lineBack, subject := .port .up, detail := .none }] s t

/-- R37, R39, R63, R109 and R117: an expiry of the quiet timer, alone or with a pass at its moment. -/
def Obligations.QuietExpiryTripsItsGroups : Prop :=
  Claims.ExpiryPostsLineQuietAndTrips ∧ Claims.ExpiryThatMeetsAPassComesAfterIt

/-! ### The output cycle -/

namespace Sys2Proof.Claims

/-- R97 and R99: the shot and the ignored-trigger count that a trigger taken with a record leaves. -/
def shotTriggered (record : Active) (now : Time) (c : Channel) : Shot × Byte :=
  if c.shot = .idle ∨ c.config.retrigger = some .restart then (startedShot record now, c.ignored)
  else (c.shot, satInc c.ignored)

/-- Is a shot ACTIVE? -/
def shotActive : Shot → Bool
  | .active _ _ _ => true
  | _ => false

/-- R99 and R101: a trigger taken with a record ends the output of a running shot. -/
def restartEnds (record : Active) (now : Time) (c : Channel) : Bool :=
  decide (c.config.retrigger = some .restart) && shotActive c.shot && !shotActive (startedShot record now)

/-- R66: a group in RUN or RESUMING. -/
def runs (r : GroupRec) : Bool := decide (r.state = .run ∨ r.state = .resuming)

/-- R66 and R70: the group accepts an AUTO commit. -/
def takesAuto (r : GroupRec) : Bool := runs r && r.sources.getLsbD 3

/-- R108: the hold check of the group reports its cause. -/
def fallsForHold (r : GroupRec) : Bool :=
  decide (r.state = .run ∧ r.holdLimit ≠ 0 ∧ r.hold = r.holdLimit)

/-- R115: the group's fallback ends. -/
def recovers (r : GroupRec) : Bool := decide (r.state = .run) && r.endPending

/-- R69: the active record that the copy of a cycle start leaves. -/
def goesLive (r : GroupRec) (c : Channel) : Active :=
  if runs r then { setpoint := c.armed.setpoint.getD c.active.setpoint,
                   delay := c.armed.delay.getD c.active.delay }
  else c.active

/-- R115 and R108: a group after a cycle start. -/
def groupStarted (r : GroupRec) : GroupRec :=
  if r.state ≠ .run then r
  else
    let r' := if r.endPending then { r with endPending := false, reason := none } else r
    if fallsForHold r then groupFallen .hold r' else { r' with hold := satInc r.hold }

/-- R69, R70, R94, R96, R112 and R115: a channel of a group after a cycle start, but for its shot and its
ignored-trigger count. Armed fields have gone live; an AUTO commit has armed what was staged, and it goes
live no earlier than at the next cycle start; the latch of a LEVEL channel and the phase of a WIDTH channel
are settled by the record that went live. -/
def channelStarted (r : GroupRec) (c : Channel) : Channel :=
  let live := goesLive r c
  let moved : Channel := { c with
    active := live,
    armed := if takesAuto r then { setpoint := c.stage.setpoint, delay := c.stage.delay }
      else if runs r then { setpoint := none, delay := none } else c.armed,
    stage := if takesAuto r && decide (c.stage.setpoint ≠ none ∨ c.stage.delay ≠ none) then
      { c.stage with setpoint := none, delay := none, source := none } else c.stage,
    override := if recovers r then .none else c.override }
  let fallen := if fallsForHold r then fellBack moved else moved
  { fallen with
    latch := if r.state ≠ .stopped ∧ c.config.mode = .level then decide (live.setpoint ≠ 0) else c.latch,
    phase := if r.state ≠ .stopped ∧ c.config.mode = .width then
        decide (live.delay = 0 ∧ live.setpoint ≠ 0 ∧ ¬(fallsForHold r = true ∧ c.config.action = .idle))
      else fallen.phase }

/-- R39, R69, R70, R82, R94, R96, R108, R115, R117, R125 and R134: what a cycle start leaves, but for shots and
ignored-trigger counts. `own` are the ports' postings of the moment. GROUP_RUN entries for the ends of
fallback and FALLBACK entries for the expired hold checks, each in the order G0 to G3, join the queue with
them in an order left open (log 10). -/
def cycleStarted (own : List Posting) (s t : State) : Prop :=
  t = { s with
    chans := t.chans, groups := t.groups, caps := t.caps, sampler := triggered .cycle s.now s.sampler,
    events := t.events, draws := t.draws } ∧
  (∀ g : Group, t.groups[g] = groupStarted s.groups[g]) ∧
  (∀ d : Chan, t.chans[d] = { channelStarted s.groups[s.chans[d].config.group] s.chans[d] with
    shot := t.chans[d].shot, ignored := t.chans[d].ignored }) ∧
  (∀ k : CapIn, t.caps[k] = (if s.caps[k].mode = .count then
    { stored s.caps[k] s.caps[k].running
        (if s.caps[k].running = 65535 then .overflow else .valid) with running := 0 }
    else s.caps[k])) ∧
  ∃ ps : List Posting, t.events = ps.foldl (fun b q => b.post s.cycle.number q) s.events ∧
    ps.filter (fun q => decide (q.code ≠ .groupRun ∧ q.code ≠ .fallback)) = own ∧
    ps.filter (fun q => decide (q.code = .groupRun)) = (allGroups.filter fun g => recovers s.groups[g]).map
      (fun g => { code := .groupRun, subject := .group g, detail := .recovered }) ∧
    ps.filter (fun q => decide (q.code = .fallback)) = (allGroups.filter fun g => fallsForHold s.groups[g]).map
      fun g => { code := .fallback, subject := .group g, detail := .cause .hold false }

/-- R70, R97, R99, R101, R102 and R112: the shots after a cycle start, wherever the orders that log 9 leaves
open do not decide. A channel that falls back with IDLE or ACTIVE has no shot. With no override a ONESHOT
channel takes a CYCLE trigger, and a COMMIT trigger of its group's AUTO commit; under an override that
stays, or in a STOPPED group, it takes none. A FOLLOW channel starts where its leader's output ends: a WIDTH
phase that is not active for count 0, or a shot that a CYCLE trigger restarts. -/
def shotsStarted (s t : State) : Prop :=
  ∀ d : Chan,
    let c := s.chans[d]
    let r := s.groups[c.config.group]
    let calm (d : Chan) : Prop := fallsForHold s.groups[s.chans[d].config.group] = true →
      s.chans[d].config.action = .hold
    let stays : Prop := c.override ≠ .none ∧ fallsForHold r = false ∧ recovers r = false
    let keeps : Prop := t.chans[d].shot = c.shot ∧ t.chans[d].ignored = c.ignored
    let takes : Prop := (t.chans[d].shot, t.chans[d].ignored) = shotTriggered (goesLive r c) s.now c
    (¬calm d → t.chans[d].shot = .idle) ∧
    (c.config.mode ≠ .oneshot → c.config.mode ≠ .follow → calm d → keeps) ∧
    (c.config.mode = .oneshot → c.config.trigger ≠ some .cycle → c.config.trigger ≠ some .commit →
      calm d → keeps) ∧
    (c.config.mode = .oneshot → c.config.trigger = some .cycle →
      (r.state ≠ .stopped → c.override = .none → calm d → takes) ∧
      (r.state = .stopped ∨ stays → keeps)) ∧
    (c.config.mode = .oneshot → c.config.trigger = some .commit →
      (takesAuto r = true → c.override = .none → fallsForHold r = false → takes) ∧
      (takesAuto r = false → calm d → keeps) ∧ (stays → keeps)) ∧
    (c.config.mode = .follow → r.state = .stopped ∨ stays → keeps) ∧
    ∀ l : Chan, c.config.mode = .follow → c.config.leader = some l → l < d →
      let lead := s.chans[l]
      let leadGroup := s.groups[lead.config.group]
      let live := goesLive leadGroup lead
      lead.config.mode = .width ∨ (lead.config.mode = .oneshot ∧ lead.config.trigger ≠ some .commit) →
      r.state ≠ .stopped → leadGroup.state ≠ .stopped → c.override = .none → lead.override = .none →
      calm d → calm l →
      t.chans[d].shot =
        if (lead.config.mode = .width ∧ lead.phase = true ∧ ¬(live.delay = 0 ∧ live.setpoint ≠ 0)) ∨
          (lead.config.mode = .oneshot ∧ lead.config.trigger = some .cycle ∧
            restartEnds live s.now lead = true) then startedShot (goesLive r c) s.now
        else c.shot

end Sys2Proof.Claims

/-- R39, R69, R70, R81, R82, R94, R96, R97, R101, R108, R115 and R125: after P ticks the counter wraps: the
number steps and the count is 0. The wrap is a cycle start: armed fields go live in RUN and RESUMING groups
and what an AUTO commit stages is armed; each RUN group ends a pending fallback, and then either falls back
for HOLD at its limit or counts the start; latches and WIDTH phases are settled; CYCLE and AUTO triggers and
leader ends move shots; COUNT inputs store; a CYCLE sampler is triggered. Where the manual leaves an order
open nothing is said (log 9). -/
def Obligations.WrapIsACycleStart : Prop :=
  ∀ (dt : Time) (s : State), s.inReset = false →
    s.cycle.period * s.cycle.tick.length ≤ s.now + dt - s.cycle.base → ∃ t : State,
    exec (.wrap dt) s = .next t ∧
    let began : State := { s with
      now := s.now + dt, cycle := { s.cycle with base := s.now + dt, number := s.cycle.number + 1 } }
    t.count = 0 ∧ Claims.cycleStarted [] began t ∧ Claims.shotsStarted began t

/-- R66, R67 and R114: a commit request is accepted if the group's sources name it and the group is
RUN or RESUMING; an ignored request changes nothing at all. -/
def Sys2Proof.Claims.CommitRequestMovesRecords : Prop :=
  ∀ (src : Source) (g : Group) (s : State),
    let r := s.groups[g]
    let named : Bool := r.sources.getLsbD (match src with
      | .mark => 0
      | .self => 1
      | .mgmt => 2
      | .auto => 3)
    let t := s.requestCommit src g
    (¬(named = true ∧ (r.state = .run ∨ r.state = .resuming)) → t = s) ∧
    (named = true → r.state = .run ∨ r.state = .resuming →
      t = { s with groups := t.groups, chans := t.chans } ∧
      (∀ h : Group, h ≠ g → t.groups[h] = s.groups[h]) ∧
      t.groups[g] = (if src = .auto then r
        else if r.state = .resuming then { r with state := .run, hold := 0, endPending := true }
        else { r with hold := 0 }) ∧
      ∀ d : Chan,
        let c := s.chans[d]
        let empty : Bool := decide (c.stage.setpoint = none ∧ c.stage.delay = none)
        let bare : Bool := empty && decide (c.armed.setpoint = none ∧ c.armed.delay = none)
        t.chans[d] = { c with
          shot := t.chans[d].shot, ignored := t.chans[d].ignored,
          stage := if c.config.group = g ∧ ¬empty then
            { c.stage with setpoint := none, delay := none, source := none } else c.stage,
          armed := if c.config.group ≠ g then c.armed
            else if bare ∧ src ≠ .auto ∧ r.state = .resuming then { setpoint := some 0, delay := some 0 }
            else { setpoint := c.stage.setpoint.or c.armed.setpoint,
                   delay := c.stage.delay.or c.armed.delay } })

/-- R67, R97, R99, R101 and R102: the COMMIT triggers of an accepted commit. A ONESHOT channel of the group whose
trigger is COMMIT and whose override is NONE takes it with its active record, which the commit leaves; every
other channel that does not follow keeps its shot; a FOLLOW channel with no override, in a group that is not
STOPPED, starts where the trigger ends its leader's shot. -/
def Sys2Proof.Claims.CommitTriggersStartShots : Prop :=
  ∀ (src : Source) (g : Group) (s : State),
    s.groups[g].sources.getLsbD (match src with
      | .mark => 0
      | .self => 1
      | .mgmt => 2
      | .auto => 3) = true → s.groups[g].state = .run ∨ s.groups[g].state = .resuming →
    let t := s.requestCommit src g
    let triggered (c : Channel) : Prop := c.config.mode = .oneshot ∧ c.config.trigger = some .commit ∧
      c.config.group = g ∧ c.override = .none
    ∀ d : Chan,
      let c := s.chans[d]
      (triggered c → (t.chans[d].shot, t.chans[d].ignored) = Claims.shotTriggered c.active s.now c) ∧
      (¬triggered c → c.config.mode ≠ .follow → t.chans[d].shot = c.shot ∧ t.chans[d].ignored = c.ignored) ∧
      ∀ l : Chan, c.config.mode = .follow → c.config.leader = some l → l < d →
        s.chans[l].config.mode ≠ .follow →
        t.chans[d].shot =
          if triggered s.chans[l] ∧ Claims.restartEnds s.chans[l].active s.now s.chans[l] = true ∧
            s.groups[c.config.group].state ≠ .stopped ∧ c.override = .none then
            Claims.startedShot c.active s.now
          else c.shot

/-- R66, R67, R97, R99, R101, R102 and R114: a commit request, its records and its triggers. -/
def Obligations.CommitRequestMeetsTheCommitTest : Prop :=
  Claims.CommitRequestMovesRecords ∧ Claims.CommitTriggersStartShots

/-- R62 to R65: the values of an accepted PUT. Of the descriptors for one channel and parameter the last in
list order gives the value; a channel of a RUN or RESUMING group takes it, at most 4095, and counts clamps
and overwrites; for a STOPPED or FALLBACK group the values are discarded and counted once. -/
def Sys2Proof.Claims.PutValuesAreMergedOrDiscarded : Prop :=
  ∀ (tag : Tag) (data : List Byte) (copy : EntryCopy) (s : State),
    let t := s.stagePut tag data copy.unpack
    let value (d : Descriptor) : Nat := match d.size with
      | .one => (data.getD d.offset.val 0).toNat
      | .two => 256 * (data.getD d.offset.val 0).toNat + (data.getD (d.offset.val + 1) 0).toNat
    let last (c : Chan) (p : Param) : Option Nat :=
      (copy.unpack.filter fun d => decide (d.chan = c ∧ d.param = p)).getLast?.map value
    let drops (g : Group) : Bool := decide (s.groups[g].state = .stopped ∨ s.groups[g].state = .fallback)
    t = { s with chans := t.chans, groups := t.groups } ∧
    (∀ g : Group, t.groups[g] =
      if drops g && copy.unpack.any fun d => decide (s.chans[d.chan].config.group = g) then
        { s.groups[g] with discard := satInc s.groups[g].discard } else s.groups[g]) ∧
    ∀ c : Chan,
      let r := s.chans[c]
      let sp := last c .setpoint
      let de := last c .delay
      let bump (yes : Bool) (n : Byte) : Byte := if yes then satInc n else n
      t.chans[c] = if drops r.config.group then r else { r with
        stage := {
          setpoint := (sp.map fun v => BitVec.ofNat 12 (min v 4095)).or r.stage.setpoint,
          delay := (de.map fun v => BitVec.ofNat 12 (min v 4095)).or r.stage.delay,
          source := if sp.isSome || de.isSome then some tag else r.stage.source,
          overwrite := bump (sp.isSome && r.stage.setpoint.isSome)
            (bump (de.isSome && r.stage.delay.isSome) r.stage.overwrite) },
        clamp := bump (sp.any fun v => decide (4095 < v)) (bump (de.any fun v => decide (4095 < v)) r.clamp) }

/-- R48 and R65: an accepted PUT is staged; where its entry says commit after, a SELF commit is then requested,
in the order G0 to G3, for each group that owns a channel of its unpack list, or for all four if the list is
empty. -/
def Sys2Proof.Claims.SelfCommitsFollowTheStaging : Prop :=
  ∀ (tag : Tag) (data : List Byte) (copy : EntryCopy) (s : State),
    let staged := s.stagePut tag data copy.unpack
    let concerned (g : Group) : Bool :=
      decide (copy.unpack = [] ∨ ∃ x ∈ copy.unpack, s.chans[x.chan].config.group = g)
    s.applyPut tag data copy =
      if copy.entry.commitAfter then
        (allGroups.filter concerned).foldl (fun t g => t.requestCommit .self g) staged
      else staged

/-- R48 and R62 to R65: an accepted PUT is staged or discarded, and may commit. -/
def Obligations.PutValuesAreStaged : Prop :=
  Claims.PutValuesAreMergedOrDiscarded ∧ Claims.SelfCommitsFollowTheStaging

/-- R72 and R73: an accepted MARK that makes no restart writes the last-mark record, triggers a MARK
sampler, and requests a MARK commit for each group that both its mask and the entry's filter name, in
turn; the cycle goes on. `posts` are the ports' own postings of the moment. -/
def Sys2Proof.Claims.MarkWithoutRestartRecordsAndCommits : Prop :=
  ∀ (number : Byte) (mask : GroupSet) (entry : TagEntry) (posts : List Posting) (s : State),
    entry.cycleSync = false ∨ s.cycle.mode = .free →
    s.handleMark number mask entry posts =
      (allGroups.filter fun g => mask.getLsbD g.val && entry.filter.getLsbD g.val).foldl
        (fun t g => t.requestCommit .mark g)
        { s.postAll posts with
          lastMark := { cycle := some number, groups := mask &&& entry.filter },
          sampler := Claims.triggered .mark s.now s.sampler }

/-- R72, R73 and R83: a MARK with cycle sync in MARKED mode first restarts the counter at this moment with the
mark's number, which is a cycle start for every group and channel (R82); then it triggers a MARK sampler and
requests the MARK commits, whose armed records so wait for the next cycle start. Some of the ports' own
postings of the moment join the queue before the restart, with the old cycle number, and the others among
those of the cycle start (R39, R183, log 10). -/
def Sys2Proof.Claims.MarkRestartPrecedesItsCommits : Prop :=
  ∀ (number : Byte) (mask : GroupSet) (entry : TagEntry) (posts : List Posting) (s : State),
    entry.cycleSync = true → s.cycle.mode = .marked →
    (∀ q ∈ posts, q.code ≠ .groupRun ∧ q.code ≠ .fallback) →
    ∃ (before after : List Posting) (u : State), posts = before ++ after ∧
      let began : State := { s.postAll before with
        lastMark := { cycle := some number, groups := mask &&& entry.filter },
        cycle := { s.cycle with base := s.now, number := number } }
      Claims.cycleStarted after began u ∧ Claims.shotsStarted began u ∧
      s.handleMark number mask entry posts =
        (allGroups.filter fun g => mask.getLsbD g.val && entry.filter.getLsbD g.val).foldl
          (fun t g => t.requestCommit .mark g) { u with sampler := Claims.triggered .mark s.now u.sampler }

/-- R72, R73, R82 and R83: an accepted MARK, with and without a restart. -/
def Obligations.MarksRecordRestartAndCommit : Prop :=
  Claims.MarkWithoutRestartRecordsAndCommits ∧ Claims.MarkRestartPrecedesItsCommits

/-- R95, R96, R101 and R102: the output of a WIDTH channel becomes active when the count reaches the delay, and
inactive when it reaches delay plus setpoint, which is a leader end if its override is NONE: each follower
that may take it starts or restarts its shot. Beneath an override the phase goes on in the same way and makes
no leader end (DEDUCED, log 28). -/
def Obligations.WidthPhaseFollowsTheCount : Prop :=
  ∀ (dt : Time) (d : Chan) (s : State), s.inReset = false →
    let c := s.chans[d]
    let count := (s.now + dt - s.cycle.base) / s.cycle.tick.length
    let first := c.active.delay.toNat
    let last := c.active.delay.toNat + c.active.setpoint.toNat
    c.config.mode = .width →
    (s.groups[c.config.group].state ≠ .stopped → c.phase = false → first ≤ count → count < last →
      count < s.cycle.period →
      exec (.widthPhaseStart dt d) s = .next { s with
        now := s.now + dt, chans := s.chans.set d { c with phase := true } }) ∧
    (c.phase = true → last ≤ count → last < s.cycle.period → ∃ t : State,
      exec (.widthPhaseEnd dt d) s = .next t ∧ t = { s with now := s.now + dt, chans := t.chans } ∧
      t.chans[d] = { c with phase := false } ∧
      (∀ f : Chan, f ≠ d → s.chans[f].config.mode ≠ .follow → t.chans[f] = s.chans[f]) ∧
      (c.override ≠ .none ∨ (∀ f : Chan, s.chans[f].config.mode = .follow → s.chans[f].config.leader ≠ some d) →
        ∀ f : Chan, f ≠ d → t.chans[f] = s.chans[f]) ∧
      ∀ f : Chan, d < f → c.override = .none → s.chans[f].config.mode = .follow →
        s.chans[f].config.leader = some d → s.groups[s.chans[f].config.group].state ≠ .stopped →
        s.chans[f].override = .none →
        t.chans[f] = { s.chans[f] with shot := Claims.startedShot s.chans[f].active (s.now + dt) })

/-- R98, R101 and R102: a shot becomes ACTIVE after its delay, or IDLE if its width is 0; after its width it is
IDLE, and if the channel's override is NONE each follower that may take the end starts or restarts its own
shot, whose delay and width are those of its own active record. -/
def Sys2Proof.Claims.ShotRunsItsDelayAndWidth : Prop :=
  ∀ (dt : Time) (d : Chan) (delay width : Value12) (since : Time) (s : State), s.inReset = false →
    let c := s.chans[d]
    let later := s.now + dt
    let passed (n : Value12) := n.toNat * s.cycle.tick.length ≤ later - since
    c.config.mode = .oneshot ∨ c.config.mode = .follow →
    (c.shot = .waiting delay width since → passed delay →
      exec (.shotDelayEnd dt d) s = .next { s with
        now := later,
        chans := s.chans.set d { c with shot := if width = 0 then .idle else .active delay width later } }) ∧
    (c.shot = .active delay width since → passed width → ∃ t : State,
      exec (.shotEnd dt d) s = .next t ∧ t = { s with now := later, chans := t.chans } ∧
      t.chans[d] = { c with shot := .idle } ∧
      (∀ f : Chan, f ≠ d → s.chans[f].config.mode ≠ .follow → t.chans[f] = s.chans[f]) ∧
      (c.override ≠ .none → ∀ f : Chan, f ≠ d → t.chans[f] = s.chans[f]) ∧
      ∀ f : Chan, d < f → c.override = .none → s.chans[f].config.mode = .follow →
        s.chans[f].config.leader = some d → s.groups[s.chans[f].config.group].state ≠ .stopped →
        s.chans[f].override = .none →
        t.chans[f] = { s.chans[f] with shot := Claims.startedShot s.chans[f].active later })

/-- R97 and R99: a ONESHOT channel takes a capture event of its trigger's input if its group is not STOPPED and
its override is NONE: an idle one, and one that runs with RESTART, starts a shot from its active record;
one that runs with IGNORE counts the trigger. Otherwise it drops the trigger. -/
def Sys2Proof.Claims.CaptureTriggerStartsAShot : Prop :=
  ∀ (k : CapIn) (d : Chan) (s : State), s.chans[d].config.mode = .oneshot →
    s.chans[d].config.trigger = some (.capture k) →
    let c := s.chans[d]
    (s.triggerCapture k).chans[d] =
      if s.groups[c.config.group].state = .stopped ∨ c.override ≠ .none then c
      else if c.shot = .idle ∨ c.config.retrigger = some .restart then
        { c with shot := Claims.startedShot c.active s.now }
      else { c with ignored := satInc c.ignored }

/-- R97 to R99, R101 and R102: triggers, shots and leader ends. -/
def Obligations.ShotsAndTheirTriggers : Prop :=
  Claims.ShotRunsItsDelayAndWidth ∧ Claims.CaptureTriggerStartsAShot

/-! ### Measurement -/

/-- R120, R122, R123, R125 and R127: a capture pin takes the opposite level. An input that is OFF follows its
pin; a pending change whose level is taken back is dropped; a filtered input records the change; an input
with filter 0 sees the edge at once. No other event of the input was due before (R124, log 3). A change at the
moment of a CONFIG_CAPTURE that was taken first gives no edge: the filtered level is the new one (R129,
log 31). -/
def Sys2Proof.Claims.CapturePinChangeIsFiltered : Prop :=
  ∀ (dt : Time) (k : CapIn) (l : Level) (s : State), s.inReset = false → s.caps[k].pin ≠ l →
    let c : Capture := { s.caps[k] with pin := l }
    let becomes (c : Capture) : Host.Outcome State Fault Refusal :=
      .next { s with now := s.now + dt, caps := s.caps.set k c }
    (∀ p, c.change = some p → s.now + dt - p.since < (match c.filter with
        | .f0 => 0
        | .f2 => 2
        | .f4 => 4
        | .f8 => 8) * s.cycle.tick.length) →
    (∀ opened, c.measure = .armed opened ∨ c.measure = .timing opened →
      s.now + dt - opened ≤ 65535 * s.cycle.tick.length) →
    let fresh : Prop := c.configuredAt = some (s.now + dt)
    (c.mode = .off → exec (.capturePinChange dt k l) s = becomes c) ∧
    (c.mode ≠ .off → fresh →
      exec (.capturePinChange dt k l) s = becomes { c with filtered := some l, change := none }) ∧
    (c.mode ≠ .off → ¬fresh → c.filtered = some l →
      exec (.capturePinChange dt k l) s = becomes { c with change := none }) ∧
    (c.mode ≠ .off → ¬fresh → c.filtered ≠ some l → c.filter ≠ .f0 →
      exec (.capturePinChange dt k l) s =
        becomes { c with change := some { level := l, since := s.now + dt } }) ∧
    (c.mode ≠ .off → ¬fresh → c.filtered ≠ some l → c.filter = .f0 →
      exec (.capturePinChange dt k l) s =
        .next (State.seeEdge k l { s with now := s.now + dt, caps := s.caps.set k c }))

/-- R119, R120, R122, R123, R125, R127: what a seen edge does. The filtered level changes and no change is pending;
PERIOD, HIGH and LOW open, close or ignore as the mode and the state say, COUNT counts; an edge that
stores a result or counts reaches the ONESHOT channels and a sampler that name the input. -/
def Obligations.SeenEdgeMeasures : Prop :=
  ∀ (k : CapIn) (l : Level) (s : State),
    let e : Edge := if l = .high then .rising else .falling
    let c : Capture := { s.caps[k] with filtered := some l, change := none }
    let seen (c : Capture) : State := { s with caps := s.caps.set k c }
    let event (c : Capture) : State :=
      let t := (seen c).triggerCapture k
      { t with sampler := Claims.triggered (.capture k) s.now t.sampler }
    let opens : Bool := decide ((c.mode = .high ∧ e = .rising) ∨ (c.mode = .low ∧ e = .falling))
    s.seeEdge k l =
      match c.mode, c.measure with
      | .period, .unarmed => seen (if c.edge = some e then { c with measure := .armed s.now } else c)
      | .period, .armed opened => if c.edge = some e then
          event { Claims.stored c (Claims.elapsedTicks s.cycle.tick opened s.now) .valid with
            measure := .armed s.now }
        else seen c
      | .high, .waiting | .low, .waiting => seen (if opens then { c with measure := .timing s.now } else c)
      | .high, .timing opened | .low, .timing opened => if opens then seen c
        else event { Claims.stored c (Claims.elapsedTicks s.cycle.tick opened s.now) .valid with
          measure := .waiting }
      | .count, _ => if e = .rising then event { c with running := satInc c.running } else seen c
      | _, _ => seen c

/-- R120 and R124: a pending change that has held for the filter width is seen as an edge, if no overflow was due
before, and a timed
measurement of 65535 tick lengths stores OVERFLOW and returns to its waiting state. -/
def Sys2Proof.Claims.HeldChangeIsSeenAndLongMeasureOverflows : Prop :=
  ∀ (dt : Time) (k : CapIn) (s : State), s.inReset = false →
    let c := s.caps[k]
    let later : State := { s with now := s.now + dt }
    (∀ p, c.change = some p → (match c.filter with
        | .f0 => 0
        | .f2 => 2
        | .f4 => 4
        | .f8 => 8) * s.cycle.tick.length ≤ s.now + dt - p.since →
      (∀ opened, c.measure = .armed opened ∨ c.measure = .timing opened →
        s.now + dt - opened ≤ 65535 * s.cycle.tick.length) →
      exec (.captureEdge dt k) s = .next (later.seeEdge k p.level)) ∧
    ∀ opened, (c.mode = .period ∧ c.measure = .armed opened) ∨
        ((c.mode = .high ∨ c.mode = .low) ∧ c.measure = .timing opened) →
      65535 * s.cycle.tick.length ≤ s.now + dt - opened →
      exec (.captureOverflow dt k) s = .next { later with
        caps := s.caps.set k { Claims.stored c 65535 .overflow with
          measure := if c.mode = .period then .unarmed else .waiting } }

/-- R120, R122 to R125, R127 and R129: pin changes, their filter, and a measurement too long. -/
def Obligations.CapturePinsAreFilteredAndTimed : Prop :=
  Claims.CapturePinChangeIsFiltered ∧ Claims.HeldChangeIsSeenAndLongMeasureOverflows

/-- R133, R136, R137, R139, R140: after 50 µs of settling the first conversion begins; after 14 µs a conversion
stores its value and the next one begins, or the scan ends in the mode's idle state; the value is checked
against the input's window, and only a new breach is posted and reported to the trip mask's groups. -/
def Obligations.ScanConvertsItsListAndChecksLimits : Prop :=
  ∀ (dt : Time) (s : State), s.inReset = false →
    (∀ since, s.sampler.scan = .settling since → 600 ≤ s.now + dt - since →
      exec (.settlingEnd dt) s = .next { s with
        now := s.now + dt, sampler := { s.sampler with scan := .converting 0 (s.now + dt) } }) ∧
    ∀ (value : BitVec 10) (pos : Fin 4) (since : Time) (a : AnIn), s.sampler.scan = .converting pos since →
      s.sampler.list[pos.val]? = some a → s.sampler.list.length ≤ 4 → 168 ≤ s.now + dt - since →
      let r := s.sampler.inputs[a]
      let out : Bool := decide (value < r.low ∨ r.high < value)
      ∃ t : State, exec (.conversionEnd dt value) s = .next t ∧
        t = { s with
          now := s.now + dt, groups := t.groups, chans := t.chans, events := t.events, draws := t.draws,
          sampler := { s.sampler with
            inputs := s.sampler.inputs.set a { r with
              value := value, valid := true, seq := r.seq + 1, outside := out },
            scan := if pos.val + 1 < s.sampler.list.length then
                .converting (Fin.ofNat 4 (pos.val + 1)) (s.now + dt)
              else match s.sampler.mode with
                | .off => .off
                | .immediate => .ready
                | .settled => .asleep } } ∧
        (out = true → r.outside = false → Claims.causeTaken (fun g => r.trip.getLsbD g.val) .limit
          [{ code := .limit, subject := .analog a,
             detail := if value < r.low then .limitLow else .limitHigh }] s t) ∧
        (out = false ∨ r.outside = true →
          t.groups = s.groups ∧ t.chans = s.chans ∧ t.events = s.events ∧ t.draws = s.draws)

/-! ### Rules of one block, whole -/

/-- R183: a posting takes the next stamp and the local cycle number; below 16 entries it joins at the
tail, at 16 the oldest entry is discarded and counted lost; two postings at one moment are taken whole, in
either order. -/
def Obligations.PostingTakesTheNextStamp : Prop :=
  (∀ (p : Posting) (s : State),
    let entry : Event := { stamp := s.events.nextStamp, code := p.code, subject := p.subject,
                           cycle := s.cycle.number, detail := p.detail }
    s.post p = { s with events :=
      if s.events.queue.length < 16 then
        { queue := s.events.queue ++ [entry], nextStamp := s.events.nextStamp + 1, lost := s.events.lost }
      else
        { queue := s.events.queue.tail ++ [entry], nextStamp := s.events.nextStamp + 1,
          lost := if s.events.lost = 255 then 255 else s.events.lost + 1 } }) ∧
  ∀ (p q : Posting) (s : State), ∃ n : Nat,
    State.postBoth [p] [q] s = ({ s with draws := n }.post p).post q ∨
    State.postBoth [p] [q] s = ({ s with draws := n }.post q).post p

/-- R189 (whole): ATTN is asserted while RESET is high and the queue holds an entry or some group is in
FALLBACK or RESUMING, and is released otherwise; so a posting asserts it, and it is released after reset. -/
def Obligations.AttnFollowsQueueAndGroups : Prop :=
  (∀ s : State, s.attn = true ↔ s.inReset = false ∧ (s.events.queue ≠ [] ∨
    ∃ g : Group, s.groups[g].state = .fallback ∨ s.groups[g].state = .resuming)) ∧
  (∀ (p : Posting) (s : State), s.inReset = false → (s.post p).attn = true) ∧
  (∀ (dt : Time) (straps : BitVec 4) (upLow downLow : Bool) (s t : State),
    exec (.resetRelease dt straps upLow downLow) s = .next t → t.attn = false) ∧
  ∀ (carrier : Option Nat) (via : Via) (s : State), s.inReset = false →
    (runRule via carrier .softReset [] s).state.attn = true

/-- R89 (whole) and R93 to R98: a drive pin is high-impedance while RESET is low, at the idle level of the channel's
polarity while its group is STOPPED, and else at the level that an override of IDLE or ACTIVE names. With
override NONE the channel's mode governs it: OFF is inactive, LEVEL follows the latch, WIDTH is active in its
phase, ONESHOT and FOLLOW while the shot is ACTIVE. -/
def Sys2Proof.Claims.DrivePinTakesItsFirstCondition : Prop :=
  ∀ (d : Chan) (s : State),
    let c := s.chans[d]
    let active : PinLevel := match c.config.polarity with
      | .activeHigh => .high
      | .activeLow => .low
    let idle : PinLevel := match c.config.polarity with
      | .activeHigh => .low
      | .activeLow => .high
    (s.inReset = true → s.drivePin d = .highImpedance) ∧
    (s.inReset = false →
      (s.groups[c.config.group].state = .stopped → s.drivePin d = idle) ∧
      (s.groups[c.config.group].state ≠ .stopped →
        (c.override = .idle → s.drivePin d = idle) ∧
        (c.override = .active → s.drivePin d = active) ∧
        (c.override = .none →
          (c.config.mode = .off → s.drivePin d = idle) ∧
          (c.config.mode = .level → s.drivePin d = (if c.latch then active else idle)) ∧
          (c.config.mode = .width → s.drivePin d = (if c.phase then active else idle)) ∧
          (c.config.mode = .oneshot ∨ c.config.mode = .follow →
            ((∃ delay width since, c.shot = .active delay width since) → s.drivePin d = active) ∧
            (c.shot = .idle ∨ (∃ delay width since, c.shot = .waiting delay width since) →
              s.drivePin d = idle)))))

/-- R93 and log 3: a channel in mode OFF takes no trigger and no leader end, and never produces a leader end: not
at a cycle start, not by a trigger, and no phase or shot of it begins or ends: the rows WIDTH_PHASE_START,
WIDTH_PHASE_END, SHOT_DELAY_END and SHOT_END have no place there (the refusal is the model's, log 3). -/
def Sys2Proof.Claims.OffChannelNeitherTakesNorMakesTriggers : Prop :=
  ∀ (d : Chan) (s : State), s.chans[d].config.mode = .off → s.inReset = false →
    let c := s.chans[d]
    (∀ k : CapIn, (s.triggerCapture k).chans[d] = c) ∧ (∀ g : Group, (s.triggerCommit g).chans[d] = c) ∧
    (∀ live : Vector Channel 6, (s.driveCycleStart live).chans[d] = c) ∧
    (∀ (now : Time) (e : Chan) (live : Channel) (src : ChanTrigger),
      (c.atCycleStart live s.groups now).2 = false ∧ (c.oneshotOn src s.groups now).2 = false ∧
      c.follows [e] = false) ∧
    ∀ dt : Time,
      exec (.widthPhaseStart dt d) s = .refused .outOfPlace ∧
      exec (.widthPhaseEnd dt d) s = .refused .outOfPlace ∧
      exec (.shotDelayEnd dt d) s = .refused .outOfPlace ∧
      exec (.shotEnd dt d) s = .refused .outOfPlace

/-- R89, R93 to R98 and log 3: what sets a drive pin, and that a channel in mode OFF stays out of every trigger. -/
def Obligations.DrivePinsFollowTheirChannels : Prop :=
  Claims.DrivePinTakesItsFirstCondition ∧ Claims.OffChannelNeitherTakesNorMakesTriggers

/-- R135 (whole): a trigger is handled by the scan state it finds. -/
def Obligations.SamplerTriggerMeetsTheScanState : Prop :=
  ∀ (now : Time) (sm : Sampler),
    (sm.scan = .off → sm.trigger now = sm) ∧
    (sm.scan = .ready → sm.trigger now = { sm with scan := .converting 0 now }) ∧
    (sm.scan = .asleep → sm.trigger now = { sm with scan := .settling now }) ∧
    ((∃ t, sm.scan = .settling t) ∨ (∃ pos t, sm.scan = .converting pos t) →
      sm.trigger now = { sm with overrun := if sm.overrun = 255 then 255 else sm.overrun + 1 })

/-- R156 (whole): the FRESH byte of a snapshot. Bit i is 1 exactly when there is a map item i that is sequenced
and whose sequence is not the one last served there; every FRESH item of the snapshot carries it. -/
def Obligations.FreshByteMarksUnservedSequences : Prop :=
  ∀ (b : Buf) (s : State),
    let m := s.publish.maps[b]
    let items := (s.publish.source.toList.drop m.first.val).take m.count.val
    let served := s.publish.records[b].served
    (∀ i : Fin 8, (s.freshByte b).getLsbD i.val = true ↔
      ∃ item seq, items[i.val]? = some item ∧ s.itemSeq item = some seq ∧ served[i] ≠ some seq) ∧
    (∀ item ∈ items, ∀ seq, s.itemSeq item = some seq ↔
      (∃ k, (item = .captureValue k ∨ item = .captureSeq k) ∧ seq = s.caps[k].seq) ∨
      (∃ k, item = .sampleValue k ∧ seq = s.sampler.inputs[k].seq)) ∧
    s.snapshotBytes b = items.flatMap fun item => match item with
      | .fresh => [s.freshByte b]
      | .captureValue k => twoBytes s.caps[k].value.toNat
      | .captureSeq k => [s.caps[k].seq]
      | .sampleValue k => twoBytes s.sampler.inputs[k].value.toNat
      | .channelActive d => twoBytes s.chans[d].active.setpoint.toNat
      | .groupState g => [match s.groups[g].state with
          | .stopped => 0
          | .run => 1
          | .fallback => 2
          | .resuming => 3]
      | .cycle => [s.cycle.number]
      | .const v => [v]

/-- 12.1 and 12.5: every header, length byte and command code is read back from its byte; no two commands
share a code, and the byte of one field drops nothing of it. -/
def Obligations.BytesOfFieldsReadBack : Prop :=
  (∀ h : Head, h ≠ .mgmt .reply 15 → headOf (headByte h) = some h) ∧
  (∀ (b : Byte) (h : Head), headOf b = some h → headByte h = b) ∧
  (∀ (n : Fin 17) (q : Sys2Proof.Seq), countOf (lengthByteOf n q) = n.val ∧ seqOf (lengthByteOf n q) = q) ∧
  (∀ c : CmdCode, cmdOf (cmdByte c) = some c) ∧
  (∀ (b : Byte) (c : CmdCode), cmdOf b = some c → cmdByte c = b) ∧
  (∀ d : Descriptor, descriptorOf ((descriptorBytes d).getD 0 0) ((descriptorBytes d).getD 1 0) = some d) ∧
  ∀ item : SourceItem, sourceItemOf (sourceKindCode item) ((sourceSelector item).getD 0xFF) = some item

/-! ### Management: what every command shares -/

/-- R166, R170: a repeat of the last sequence executes nothing: the frame passes and UP REPEAT counts it.
The row stands for the check-byte moment of a passing frame: the model's choice, log 8. -/
def Sys2Proof.Claims.RepeatedCommandExecutesNothing : Prop :=
  ∀ (c : Instr) (row : Claims.Row) (s : State), Claims.rowOf c = some row → Claims.lineFree s →
    s.mgmt.lastSeq = some row.seq → (row.via = .own → s.mgmt.station ≠ none) →
    let p := Claims.passed (c.dt) s
    exec c s = .next { p with up := { p.up with
      counts := { p.up.counts with repeats := satInc p.up.counts.repeats } } }

/-- R165, R169: a broadcast of a command other than COMMIT, GROUP_STOP, SOFT_RESET, PING and ASSIGN_STATION is
rejected: it executes nothing, the reject count steps, and the sequence is recorded. A frame addressed to
a station meets no unassigned bridge (log 8): there it only passes. -/
def Sys2Proof.Claims.BroadcastOutsideTheFiveIsRejected : Prop :=
  ∀ (c : Instr) (row : Claims.Row) (s : State), Claims.rowOf c = some row → Claims.lineFree s →
    (row.via = .broadcast → s.mgmt.lastSeq ≠ some row.seq →
      row.bytes.head? ∉ [some 0x26, some 0x24, some 0x08, some 0x01, some 0x06] →
      let p := Claims.taken (c.dt) row.seq s
      exec c s = .next { p with mgmt := { p.mgmt with rejects := satInc p.mgmt.rejects } }) ∧
    (row.via = .own → s.mgmt.station = none →
      exec c s = .next (Claims.passed (c.dt) s))

/-- R169: at its check byte a broadcast with count 0, with an undefined code, with a code that is not one of the
five, or with a wrong length is rejected: it executes nothing and writes no reply, the reject count steps,
and the sequence is recorded. -/
def Sys2Proof.Claims.UndecodableBroadcastIsRejected : Prop :=
  ∀ (carrier : Option Nat) (seq : Sys2Proof.Seq) (data : List Byte) (s : State),
    s.mgmt.lastSeq ≠ some seq →
    data = [] ∨ (∃ b ops, data = b :: ops ∧ ∀ c : CmdCode, cmdByte c ≠ b) ∨
      (∃ c ops, data = cmdByte c :: ops ∧
        (c ∉ [CmdCode.commit, .groupStop, .softReset, .ping, .assignStation] ∨ ops.length ≠ cmdLength c)) →
    s.takeCommand .broadcast carrier seq data = { s with mgmt := { s.mgmt with
      lastSeq := some seq, rejects := satInc s.mgmt.rejects } }

/-- R165, R166, R169, R170 and log 8: repeats, rejected broadcasts, and frames at an unassigned bridge. -/
def Obligations.RepeatsAndRejectsExecuteNothing : Prop :=
  Claims.RepeatedCommandExecutesNothing ∧ Claims.BroadcastOutsideTheFiveIsRejected ∧
  Claims.UndecodableBroadcastIsRejected

/-- The model's refusal (logs 3 and 8): a management row is the check-byte moment of a frame, so it is refused by
name while another frame is in flight on UP or a low is being timed there. -/
def Obligations.CommandRowsNeedAFreeLine : Prop :=
  ∀ (c : Instr) (row : Claims.Row) (s : State), Claims.rowOf c = some row → s.inReset = false →
    s.fc.state ≠ .done ∨ s.up.rx ≠ .idle → exec c s = .refused .outOfPlace

/-- R74, R145, R168 and R191: an own command that is refused with BAD_OPERAND, BAD_LENGTH or NOT_FOUND, and one
other than a mask command and SAMPLE_NOW that is refused with STATE or BAD_ENTRY, changes nothing beyond
the frame's pass, the last sequence and the reply record. A SAMPLE_NOW refused with STATE changes the
trigger overrun count besides, where a scan was on (R145); a mask command acts on the groups that it may act
on whatever its result (R104).
The row stands for the check-byte moment of a passing frame: the model's choice, log 8. -/
def Sys2Proof.Claims.RefusedCommandOnlyPassesAndReplies : Prop :=
  ∀ (c : Instr) (row : Claims.Row) (station : Fin 15) (s t : State), Claims.rowOf c = some row →
    row.via = .own → Claims.takesOwn station row.seq s → exec c s = .next t →
    let p := Claims.taken (c.dt) row.seq s
    let sampler : Sampler := { s.sampler with overrun := satInc s.sampler.overrun }
    (t.mgmt.reply.result ∈ [some CmdResult.badOperand, some .badLength, some .notFound] ∨
        (t.mgmt.reply.result ∈ [some CmdResult.state, some .badEntry] ∧
          row.bytes.head? ∉ [some 0x23, some 0x25, some 0x26, some 0x34]) →
      t = Claims.replied (row.bytes.headD 0) row.seq (t.mgmt.reply.result.getD .ok) t.mgmt.reply.data p) ∧
    (row.bytes.head? = some 0x34 → t.mgmt.reply.result = some .state →
      t = Claims.replied 0x34 row.seq .state t.mgmt.reply.data
        (if s.sampler.scan = .off then p else { p with sampler := sampler }))

/-- R168, steps 1 and 2, and R170: an own command with no code, an undefined code or a wrong length is refused
before any rule, and the reply shows the lengths received and expected. -/
def Sys2Proof.Claims.UndecodableCommandIsRefused : Prop :=
  ∀ (carrier : Option Nat) (seq : Sys2Proof.Seq) (s : State), s.mgmt.lastSeq ≠ some seq →
    let replies (code : Option Byte) (result : CmdResult) (data : List Byte) : State :=
      { s with mgmt := { s.mgmt with
          lastSeq := some seq,
          reply := { result := some result, code := code, seq := some seq, data := data } } }
    s.takeCommand .own carrier seq [] = replies none .badLength [] ∧
    (∀ (b : Byte) (ops : List Byte), (∀ c : CmdCode, cmdByte c ≠ b) →
      s.takeCommand .own carrier seq (b :: ops) = replies (some b) .badCode []) ∧
    (∀ (c : CmdCode) (ops : List Byte), c ≠ .writeUnpack → ops.length ≠ cmdLength c →
      s.takeCommand .own carrier seq (cmdByte c :: ops) =
        replies (some (cmdByte c)) .badLength
          [BitVec.ofNat 8 ops.length, BitVec.ofNat 8 (cmdLength c)]) ∧
    (∀ ops : List Byte, ops.length < 2 →
      s.takeCommand .own carrier seq (0x12 :: ops) =
        replies (some 0x12) .badLength [BitVec.ofNat 8 ops.length, 2]) ∧
    ∀ (first number : Byte) (ds : List Byte), 1 ≤ number.toNat → number.toNat ≤ 6 →
      ds.length ≠ 2 * number.toNat →
      s.takeCommand .own carrier seq (0x12 :: first :: number :: ds) =
        replies (some 0x12) .badLength
          [BitVec.ofNat 8 (ds.length + 2), BitVec.ofNat 8 (2 + 2 * number.toNat)]

/-- R74, R104, R145, R168, R170 and R191: refusals, by a rule and before any rule. -/
def Obligations.RefusedCommandsOnlyPassAndReply : Prop :=
  Claims.RefusedCommandOnlyPassesAndReplies ∧ Claims.UndecodableCommandIsRefused

/-! ### The results of the management commands -/

/-- R174, R184, R186, R187 and 12.5: PING, READ_STATUS, READ_COUNTS and EVENT_READ change nothing but the reply
record, which shows the items as they stand after the frame's own pass.
The row stands for the check-byte moment of a passing frame: the model's choice, log 8. -/
def Obligations.StatusReadsReplyWithTheItems : Prop :=
  ∀ (dt : Time) (q : Sys2Proof.Seq) (n : Fin 15) (s : State), Claims.takesOwn n q s →
    let p := Claims.taken dt q s
    let group (g : Group) : Byte := BitVec.ofNat 8
      ((match s.groups[g].state with
        | .stopped => 0
        | .run => 1
        | .fallback => 2
        | .resuming => 3) +
       4 * (match s.groups[g].reason with
        | none => 0
        | some .hold => 1
        | some .quiet => 2
        | some .limit => 3) + (if s.groups[g].endPending then 16 else 0))
    let up := p.up.counts
    let down := p.down.counts
    let shown := p.events.queue.take 2
    exec (.ping dt .own q) s = .next (Claims.replied 0x01 q .ok
      [0xB6, byteOf n.val, rateCode s.mgmt.rate, s.mgmt.quietLimit, s.mgmt.rejects] p) ∧
    exec (.readStatus dt .own q) s = .next (Claims.replied 0x02 q .ok
      [group 0, group 1, group 2, group 3, byteOf p.events.queue.length, p.events.lost, s.tags.generation,
       byteOf n.val, 1, scanCode s.sampler.scan, if s.mgmt.quietLimit = 0 then 0 else 1] p) ∧
    exec (.readCounts dt .own q 0) s = .next (Claims.replied 0x03 q .ok
      [up.framesOk, up.rate, up.format, up.framing, up.gap, up.length, up.check, up.mismatch, up.repeats,
       up.conflict, up.stray, s.mgmt.rejects, p.events.lost] p) ∧
    exec (.readCounts dt .own q 1) s = .next (Claims.replied 0x03 q .ok
      [down.framesOk, down.check, down.framing, down.gap, down.timeout, down.conflict, down.foreign] p) ∧
    exec (.eventRead dt .own q) s = .next (Claims.replied 0x50 q .ok
      ([byteOf shown.length, byteOf (p.events.queue.length - shown.length), p.events.lost] ++
        shown.flatMap fun e => [e.stamp, eventCode e.code, subjectByte e.subject, e.cycle,
          detailByte e.detail]) p)

/-- R54, R55 and 12.5: READ_TAG and READ_UNPACK change nothing but the reply record.
The row stands for the check-byte moment of a passing frame: the model's choice, log 8. -/
def Sys2Proof.Claims.TagReadsReplyWithTheBank : Prop :=
  ∀ (dt : Time) (q : Sys2Proof.Seq) (n : Fin 15) (shadow : Bool) (s : State), Claims.takesOwn n q s →
    let p := Claims.taken dt q s
    let bank := if shadow then s.tags.shadow else s.tags.active
    let selector : Byte := if shadow then 1 else 0
    (∀ tag : Tag,
      let e := bank.entries[tag]
      let r := s.tags.runtime[tag]
      let yes (b : Bool) : Byte := if b then 1 else 0
      exec (.readTag dt .own q selector (byteOf tag.val)) s = .next (Claims.replied 0x11 q .ok
        [roleCode e.role, forwardCode e.forward, expectedCode e.expected, byteOf e.unpackFirst.val,
         byteOf e.unpackCount.val, yes e.commitAfter, e.filter.setWidth 8, yes e.cycleSync,
         byteOf e.buffer.val, s.tags.generation,
         byteOf ((match r.lastSeq with
            | some q => 64 + q.toNat
            | none => 0) + (if r.lastGeneration = none then 0 else 128)),
         r.accepted, r.lastGeneration.getD 0] p)) ∧
    ∀ (first : Fin 48) (number : Nat), 1 ≤ number → number ≤ 6 → first.val + number ≤ 48 →
      exec (.readUnpack dt .own q selector (byteOf first.val) (byteOf number)) s =
        .next (Claims.replied 0x13 q .ok
          (((bank.descriptors.toList.drop first.val).take number).flatMap descriptorBytes) p)

/-- R77, R78, R130 and 12.5: READ_CHANNEL and READ_CAPTURE. Only the COUNTS_CLEAR view changes anything: it sets
to 0 the channel's overwrite, clamp and ignored counts and its group's discard count, after the reply.
The row stands for the check-byte moment of a passing frame: the model's choice, log 8. -/
def Sys2Proof.Claims.ChannelAndCaptureReads : Prop :=
  ∀ (dt : Time) (q : Sys2Proof.Seq) (n : Fin 15) (s : State), Claims.takesOwn n q s →
    let p := Claims.taken dt q s
    let two (v : Option Value12) : List Byte := match v with
      | some v => [byteOf (v.toNat / 256), byteOf v.toNat]
      | none => [0xFF, 0xFF]
    (∀ d : Chan,
      let c := s.chans[d]
      let r := s.groups[c.config.group]
      let counts : List Byte :=
        [byteOf c.config.group.val, c.stage.overwrite, c.clamp, c.ignored, r.discard, r.sources.setWidth 8,
         r.holdLimit, if r.quietTrip then 1 else 0, s.lastMark.cycle.getD 0,
         s.lastMark.groups.setWidth 8 + (if s.lastMark.cycle = none then 0 else 128)]
      exec (.readChannel dt .own q (byteOf d.val) 0) s = .next (Claims.replied 0x27 q .ok
        (two c.stage.setpoint ++ two c.stage.delay ++
          [match c.stage.source with
            | some t => byteOf t.val
            | none => 0xFF] ++
          two c.armed.setpoint ++ two c.armed.delay ++ two (some c.active.setpoint) ++
          two (some c.active.delay)) p) ∧
      exec (.readChannel dt .own q (byteOf d.val) 1) s = .next (Claims.replied 0x27 q .ok counts p) ∧
      exec (.readChannel dt .own q (byteOf d.val) 2) s = .next (Claims.replied 0x27 q .ok counts { p with
        chans := s.chans.set d { c with stage := { c.stage with overwrite := 0 }, clamp := 0, ignored := 0 },
        groups := s.groups.set c.config.group { r with discard := 0 } })) ∧
    ∀ k : CapIn,
      let c := s.caps[k]
      let progress : BitVec 16 := match c.measure with
        | .armed opened => Claims.elapsedTicks s.cycle.tick opened (s.now + dt)
        | .timing opened => Claims.elapsedTicks s.cycle.tick opened (s.now + dt)
        | .counting => c.running
        | _ => 0
      exec (.readCapture dt .own q (byteOf k.val)) s = .next (Claims.replied 0x31 q .ok
        [captureModeCode c.mode,
         match c.edge with
          | some .rising => 0
          | some .falling => 1
          | none => 0xFF,
         match c.filter with
          | .f0 => 0
          | .f2 => 2
          | .f4 => 4
          | .f8 => 8,
         measureCode c.measure, byteOf (progress.toNat / 256), byteOf progress.toNat,
         match c.filtered with
          | some .low => 0
          | some .high => 1
          | none => 0xFF,
         byteOf (c.value.toNat / 256), byteOf c.value.toNat, captureStatusCode c.status, c.seq] p)

/-- R54, R55, R77, R78, R130: the reads of the tag table, of a channel and of a capture input. -/
def Obligations.TableChannelAndCaptureReads : Prop :=
  Claims.TagReadsReplyWithTheBank ∧ Claims.ChannelAndCaptureReads

/-- R146, R161 and 12.5: READ_SAMPLES and READ_PUBLISH change nothing but the reply record. The SOURCE view of a
FRESH item reads a byte that the manual leaves open, a draw that the model counts (log 11). In the SCAN view
the entries beyond the list's length read 0xFF, the byte of NONE (12.3; DEDUCED, log 14), and in the LIMITS
view the outside flag reads 0 or 1 (DEDUCED, log 37).
The row stands for the check-byte moment of a passing frame: the model's choice, log 8. -/
def Obligations.SampleAndPublishReads : Prop :=
  ∀ (dt : Time) (q : Sys2Proof.Seq) (n : Fin 15) (s : State), Claims.takesOwn n q s →
    let p := Claims.taken dt q s
    let two (v : Nat) : List Byte := [byteOf (v / 256), byteOf v]
    let result (a : Analog) : List Byte :=
      two (a.value.toNat + (if a.valid then 16384 else 0) + (if a.outside then 32768 else 0)) ++ [a.seq]
    let sm := s.sampler
    let entry (i : Nat) : Byte := match sm.list[i]? with
      | some a => byteOf a.val
      | none => 0xFF
    (∀ other : Byte, exec (.readSamples dt .own q 0 other) s = .next (Claims.replied 0x35 q .ok
      (result sm.inputs[0] ++ result sm.inputs[1] ++ result sm.inputs[2] ++ result sm.inputs[3]) p)) ∧
    (∀ other : Byte, exec (.readSamples dt .own q 1 other) s = .next (Claims.replied 0x35 q .ok
      [samplerModeCode sm.mode, byteOf sm.list.length, entry 0, entry 1, entry 2, entry 3,
       samplerSourceCode sm.source, scanCode sm.scan, match sm.scan with
        | .converting pos _ => byteOf pos.val
        | _ => 0xFF, sm.overrun] p)) ∧
    (∀ a : AnIn, exec (.readSamples dt .own q 2 (byteOf a.val)) s = .next (Claims.replied 0x35 q .ok
      (two sm.inputs[a].low.toNat ++ two sm.inputs[a].high.toNat ++
        [sm.inputs[a].trip.setWidth 8, if sm.inputs[a].outside then 1 else 0]) p)) ∧
    (∀ (b : Buf) (half : Byte),
      let m := s.publish.maps[b]
      let r := s.publish.records[b]
      exec (.readPublish dt .own q 0 (byteOf b.val) half) s = .next (Claims.replied 0x42 q .ok
        ([byteOf m.first.val, byteOf m.count.val, byteOf (mapSize s.publish.source m)] ++
          two r.servedCount.toNat ++
          [match r.outcome with
            | none => 0
            | some .served => 2
            | some .conflict => 3, s.freshByte b]) p) ∧
      (∃ presence : Byte, exec (.readPublish dt .own q 1 (byteOf b.val) half) s =
        .next (Claims.replied 0x42 q .ok (presence :: r.served.toList.map fun v => v.getD 0) p) ∧
        ∀ i : Fin 8, presence.getLsbD i.val = r.served[i].isSome) ∧
      (half.toNat ≤ 1 → exec (.readPublish dt .own q 2 (byteOf b.val) half) s = .next
        (Claims.replied 0x42 q .ok
          (byteOf r.snapshot.length :: (r.snapshot.drop (8 * half.toNat)).take 8) p))) ∧
    ∀ (i : Fin 32) (half : Byte),
      let item := s.publish.source[i]
      let kind := sourceKindCode item
      let select := match sourceSelector item with
        | some v => v
        | none => 0xFF
      let sequenced : List Byte := match s.itemSeq item with
        | some v => [1, v]
        | none => [0, 0]
      (∀ x : Byte, s.itemBytes 0 item = [x] → item ≠ .fresh →
        exec (.readPublish dt .own q 3 (byteOf i.val) half) s =
          .next (Claims.replied 0x42 q .ok ([kind, select, 1, 0, x] ++ sequenced) p)) ∧
      (∀ x y : Byte, s.itemBytes 0 item = [x, y] →
        exec (.readPublish dt .own q 3 (byteOf i.val) half) s =
          .next (Claims.replied 0x42 q .ok ([kind, select, 2, x, y] ++ sequenced) p)) ∧
      (item = .fresh → ∃ x : Byte, exec (.readPublish dt .own q 3 (byteOf i.val) half) s =
        .next (Claims.replied 0x42 q .ok [6, 0xFF, 1, 0, x, 0, 0] { p with draws := s.draws + 1 }))

/-- R175, R185 and R188: SET_LINE sets the nominal rate and the quiet limit, and the quiet timer runs with the
new limit from this pass; CLEAR_COUNTS clears the port counters, the reject count and the lost count;
EVENT_ACK removes the entry with the stamp and every older one, or answers NOT_FOUND and removes none.
The row stands for the check-byte moment of a passing frame: the model's choice, log 8. -/
def Obligations.LineCountAndAckCommands : Prop :=
  ∀ (dt : Time) (q : Sys2Proof.Seq) (n : Fin 15) (s : State), Claims.takesOwn n q s →
    let p := Claims.taken dt q s
    let queue := p.events.queue
    (∀ (rate : Rate) (limit : Byte),
      exec (.setLine dt .own q (rateCode rate) limit) s = .next (Claims.replied 0x05 q .ok
        [rateCode rate, limit] { p with
          mgmt := { p.mgmt with rate := rate, quietLimit := limit },
          up := { p.up with
            quiet := if limit = 0 then .off else .running, quietSince := s.now + dt } })) ∧
    exec (.clearCounts dt .own q) s = .next (Claims.replied 0x04 q .ok [] { p with
      up := { p.up with counts := {
        framesOk := 0, rate := 0, format := 0, framing := 0, gap := 0, length := 0, check := 0,
        mismatch := 0, repeats := 0, conflict := 0, stray := 0 } },
      down := { p.down with counts := {
        framesOk := 0, check := 0, framing := 0, gap := 0, timeout := 0, conflict := 0, foreign := 0 } },
      mgmt := { p.mgmt with rejects := 0 }, events := { p.events with lost := 0 } }) ∧
    (∀ (older newer : List Event) (e : Event), queue = older ++ e :: newer →
      (∀ x ∈ older, x.stamp ≠ e.stamp) →
      exec (.eventAck dt .own q e.stamp) s = .next (Claims.replied 0x51 q .ok
        [byteOf (older.length + 1), byteOf newer.length] { p with
          events := { p.events with queue := newer } })) ∧
    ∀ stamp : Byte, (∀ x ∈ queue, x.stamp ≠ stamp) →
      exec (.eventAck dt .own q stamp) s = .next (Claims.replied 0x51 q .notFound
        [byteOf queue.length, match queue with
          | [] => 0xFF
          | x :: _ => x.stamp] p)

/-- R176, R177 and R178: a broadcast ASSIGN_STATION numbers an unassigned bridge and posts STATION; it does
nothing at an assigned one, nor with a number above 14; an own one is refused with STATE; UNASSIGN makes the
station NONE and posts STATION.
The row stands for the check-byte moment of a passing frame: the model's choice, log 8. -/
def Obligations.StationIsAssignedAndUnassigned : Prop :=
  ∀ (dt : Time) (q : Sys2Proof.Seq) (s : State),
    let p := Claims.taken dt q s
    let numbered (station : Option (Fin 15)) (detail : Detail) : State :=
      { p with mgmt := { p.mgmt with station := station } }.post
        { code := .station, subject := .none, detail := detail }
    (∀ m : Fin 15, Claims.takesBroadcast q s → s.mgmt.station = none →
      exec (.assignStation dt .broadcast q (byteOf m.val)) s =
        .next (numbered (some m) (.byte (byteOf m.val)))) ∧
    (∀ b : Byte, Claims.takesBroadcast q s → s.mgmt.station ≠ none ∨ 15 ≤ b.toNat →
      exec (.assignStation dt .broadcast q b) s = .next p) ∧
    (∀ (n : Fin 15) (b : Byte), Claims.takesOwn n q s →
      exec (.assignStation dt .own q b) s = .next (Claims.replied 0x06 q .state [byteOf n.val] p)) ∧
    ∀ n : Fin 15, Claims.takesOwn n q s →
      exec (.unassign dt .own q) s = .next (Claims.replied 0x07 q .ok [] (numbered none .none))

/-- R41, R50, R60, R61, R80, R85, R103, R131, R132, R147, R151, R162, R163, R179: SOFT_RESET, own or broadcast,
gives every block its soft-reset values; the station, the line settings, the UP receiver and the capture
pins stay; an own one writes its reply; the event queue holds SOFT_RESET alone, with stamp 0 and cycle 0.
The DOWN port completes the break or byte that it is sending and ends its frame there, and ends a delimiter,
a wait or a listening at once; a low goes on being timed, and one under way where the port listened or read
can have begun since that window opened (log 33).
The row stands for the check-byte moment of a passing frame: the model's choice, log 8. -/
def Sys2Proof.Claims.SoftResetRowResetsEveryBlock : Prop :=
  ∀ (dt : Time) (via : Via) (q : Sys2Proof.Seq) (s : State), Claims.takesBroadcast q s →
    (via = .own → s.mgmt.station ≠ none) → ∃ t : State,
    exec (.softReset dt via q) s = .next t ∧
    t.now = s.now + dt ∧ t.inReset = false ∧ t.straps = s.straps ∧ t.pending = s.pending ∧
    t.mgmt = { s.mgmt with
      lastSeq := none, rejects := 0,
      reply := if via = .own then
          { result := some .ok, code := some 0x08, seq := some q, data := [] }
        else s.mgmt.reply } ∧
    t.events = { queue := [{ stamp := 0, code := .softReset, subject := .none, cycle := 0,
                             detail := if via = .own then .addressed else .broadcast }],
                 nextStamp := 1, lost := 0 } ∧
    t.up = { rx := s.up.rx, start := none, tx := s.up.tx, resp := [],
             counts := { framesOk := 0, rate := 0, format := 0, framing := 0, gap := 0, length := 0,
                         check := 0, mismatch := 0, repeats := 0, conflict := 0, stray := 0 },
             quiet := if s.mgmt.quietLimit = 0 then .off else .running, quietSince := s.now + dt,
             met := none } ∧
    t.fc = { state := .done, span := none, head := none, addr := none, lengthByte := none, copy := none,
             forward := none, answer := none, relay := none, count := none, seq := none, data := [],
             sum := 0, outcome := none, noLocal := false, ref := 0, relayAgrees := none,
             relayEnded := false, id := 0 } ∧
    t.relay = [] ∧
    (let sends := s.down.state = .sendingBreak ∨ s.down.state = .rate ∨
        (s.down.state = .sending ∧ s.down.cur ≠ none)
      let waits := s.down.state = .delimiter ∨ s.down.state = .listen ∨ s.down.state = .receive ∨
        (s.down.state = .sending ∧ s.down.cur = none)
      t.down = { s.down with
        state := if waits then .idle else s.down.state,
        abandoned := if sends then true else s.down.abandoned,
        heardFrom := if s.down.state = .listen ∨ s.down.state = .receive then some s.down.since
          else s.down.heardFrom,
        counts := { framesOk := 0, check := 0, framing := 0, gap := 0, timeout := 0, conflict := 0,
                    foreign := 0 } }) ∧
    Claims.blocksReset s t (s.now + dt)

/-- R41: at the check byte of the frame that carries SOFT_RESET, the relay queue keeps that frame's entries and
drops every other; a DOWN port that works on that frame goes on with it, so that a forwarded broadcast
reaches the bridges downstream whole. -/
def Sys2Proof.Claims.SoftResetKeepsItsCarrier : Prop :=
  ∀ (via : Via) (carrier : Nat) (q : Sys2Proof.Seq) (s : State), s.mgmt.lastSeq ≠ some q →
    let t := s.takeCommand via (some carrier) q [0x08]
    t.relay = s.relay.filter (fun e => decide (e.frame = carrier)) ∧
    (s.down.frame = carrier → t.down = { s.down with
      counts := { framesOk := 0, check := 0, framing := 0, gap := 0, timeout := 0, conflict := 0,
                  foreign := 0 } }) ∧
    Claims.blocksReset s t s.now

/-- R41, R50, R60, R61, R80, R85, R103, R131, R132, R147, R151, R162, R163 and R179: SOFT_RESET, as a row and at the
check byte of its frame. -/
def Obligations.SoftResetGivesTheSoftResetValues : Prop :=
  Claims.SoftResetRowResetsEveryBlock ∧ Claims.SoftResetKeepsItsCarrier

/-- R51, R52, R53 and R56: WRITE_TAG stores the entry, with the fields that its role fixes, in the shadow bank
alone, and refuses PUBLISH with DOWN and CONSUME with ANY; WRITE_UNPACK writes its descriptors at
consecutive indexes of the shadow bank; COPY_BANK makes the shadow bank a copy of the active one.
The row stands for the check-byte moment of a passing frame: the model's choice, log 8. -/
def Obligations.BankWritesReachTheShadowBank : Prop :=
  ∀ (dt : Time) (q : Sys2Proof.Seq) (n : Fin 15) (s : State), Claims.takesOwn n q s →
    let p := Claims.taken dt q s
    let shadow (b : Bank) : State := { p with tags := { s.tags with shadow := b } }
    (∀ (tag : Tag) (e : TagEntry) (commitAfter sync : Byte), e.commitAfter = decide (commitAfter ≠ 0) →
      e.cycleSync = decide (sync ≠ 0) →
      let stored : TagEntry := match e.role with
        | .relay => { e with forward := .down, expected := .any }
        | .block => { e with forward := .none, expected := .any }
        | .marker => { e with expected := .exactly 2 }
        | .publish => e
        | .consume => e
      exec (.writeTag dt .own q (byteOf tag.val) (roleCode e.role) (forwardCode e.forward)
        (expectedCode e.expected) (byteOf e.unpackFirst.val) (byteOf e.unpackCount.val) commitAfter
        (e.filter.setWidth 8) sync (byteOf e.buffer.val)) s = .next (
          if (e.role = .publish ∧ e.forward = .down) ∨ (e.role = .consume ∧ e.expected = .any) then
            Claims.replied 0x10 q .badEntry [byteOf tag.val] p
          else Claims.replied 0x10 q .ok [byteOf tag.val]
            (shadow { s.tags.shadow with entries := s.tags.shadow.entries.set tag stored }))) ∧
    (∀ (first : Fin 48) (ds : List Descriptor), 1 ≤ ds.length → ds.length ≤ 6 →
      first.val + ds.length ≤ 48 → ∃ table : Vector Descriptor 48,
      exec (.writeUnpack dt .own q (byteOf first.val) (byteOf ds.length) (ds.flatMap descriptorBytes)) s =
        .next (Claims.replied 0x12 q .ok [byteOf first.val, byteOf ds.length]
          (shadow { s.tags.shadow with descriptors := table })) ∧
      ∀ i : Fin 48, table[i] = (if first.val ≤ i.val ∧ i.val < first.val + ds.length then
        ds.getD (i.val - first.val) s.tags.shadow.descriptors[i] else s.tags.shadow.descriptors[i])) ∧
    exec (.copyBank dt .own q) s =
      .next (Claims.replied 0x15 q .ok [s.tags.generation] (shadow s.tags.active))

/-- R57 and R58: SWAP_BANKS validates the shadow bank. If every CONSUME entry is sound the banks exchange their
roles, the generation steps and SWAP is posted with it; otherwise the command is refused with BAD_ENTRY for
the lowest tag whose entry is not, with the reason (LIST 2, DESCRIPTOR 3) and the index of the first
descriptor that does not fit, and nothing else changes.
The row stands for the check-byte moment of a passing frame: the model's choice, log 8. -/
def Obligations.SwapBanksTakesOnlyASoundBank : Prop :=
  ∀ (dt : Time) (q : Sys2Proof.Seq) (n : Fin 15) (s : State), Claims.takesOwn n q s →
    let p := Claims.taken dt q s
    let g := s.tags.generation + 1
    (Claims.bankSound s.tags.shadow →
      exec (.swapBanks dt .own q) s = .next (Claims.replied 0x14 q .ok [g]
        ({ p with tags := { s.tags with
            active := s.tags.shadow, shadow := s.tags.active, generation := g } }.post
          { code := .swap, subject := .none, detail := .byte g }))) ∧
    ∀ tag : Tag, ¬Claims.entrySound s.tags.shadow s.tags.shadow.entries[tag] →
      (∀ i : Tag, i < tag → Claims.entrySound s.tags.shadow s.tags.shadow.entries[i]) →
      let e := s.tags.shadow.entries[tag]
      let listed (k : Fin 48) : Prop :=
        e.unpackFirst.val ≤ k.val ∧ k.val < e.unpackFirst.val + e.unpackCount.val
      let fits (k : Fin 48) : Prop := ∃ n : Fin 17, e.expected = .exactly n ∧
        s.tags.shadow.descriptors[k].offset.val +
          (if s.tags.shadow.descriptors[k].size = .two then 2 else 1) ≤ n.val
      let refused (reason index : Byte) : Prop := exec (.swapBanks dt .own q) s =
        .next (Claims.replied 0x14 q .badEntry [byteOf tag.val, reason, index] p)
      (48 < e.unpackFirst.val + e.unpackCount.val → refused 2 0xFF) ∧
      (e.unpackFirst.val + e.unpackCount.val ≤ 48 → ∀ k : Fin 48, listed k → ¬fits k →
        (∀ j : Fin 48, j < k → listed j → fits j) → refused 3 (byteOf k.val))

/-- R84 and R121: CONFIG_CYCLE is refused with STATE while a group is not STOPPED. With all STOPPED it takes the
settings and restarts the counter at this moment with the next cycle number; no channel changes; a timed
capture measurement is abandoned, a pending change timed anew, and a COUNT input stores.
The row stands for the check-byte moment of a passing frame: the model's choice, log 8. -/
def Obligations.ConfigCycleRestartsTheCounter : Prop :=
  ∀ (dt : Time) (q : Sys2Proof.Seq) (n : Fin 15) (tick : Tick) (mode : CycleMode) (high low : Byte)
    (s : State), Claims.takesOwn n q s →
    let p := Claims.taken dt q s
    let period := 256 * high.toNat + low.toNat
    let code : Byte := match tick with
      | .us1 => 0
      | .us2 => 1
      | .us5 => 2
      | .us10 => 3
    let modeByte : Byte := match mode with
      | .free => 0
      | .marked => 1
    2 ≤ period → period ≤ 4096 →
    ((∀ g : Group, s.groups[g].state = .stopped) → ∃ t : State,
      exec (.configCycle dt .own q code high low modeByte) s =
        .next (Claims.replied 0x20 q .ok [code, high, low, modeByte, s.cycle.number + 1] t) ∧
      t = { p with
        cycle := { tick := tick, period := period, mode := mode, base := s.now + dt,
                   number := s.cycle.number + 1 },
        caps := t.caps, sampler := Claims.triggered .cycle (s.now + dt) s.sampler, draws := t.draws } ∧
      ∀ k : CapIn, t.caps[k] =
        let c : Capture := { s.caps[k] with
          change := s.caps[k].change.map fun ch => { ch with since := s.now + dt },
          measure := match s.caps[k].measure, s.caps[k].mode with
            | .armed _, .period => .unarmed
            | .timing _, .high => .waiting
            | .timing _, .low => .waiting
            | .armed _, m => m.restMeasure
            | .timing _, m => m.restMeasure
            | m, _ => m }
        if c.mode = .count then
          { Claims.stored c c.running (if c.running = 65535 then .overflow else .valid) with running := 0 }
        else c) ∧
    ((∃ g : Group, s.groups[g].state ≠ .stopped) → ∃ busy : GroupSet,
      exec (.configCycle dt .own q code high low modeByte) s =
        .next (Claims.replied 0x20 q .state [busy.setWidth 8] p) ∧
      ∀ g : Group, busy.getLsbD g.val = decide (s.groups[g].state ≠ .stopped))

/-- R86, R87 and R88: CONFIG_CHANNEL stores the seven fields of a channel whose group is STOPPED, with NONE for
what the mode does not use; the new group's state gives the override (NONE in a RUN group, also while its end
pending is yes: DEDUCED, log 25). It is refused with STATE in another group, and with BAD_ENTRY where a
leader test fails or a running follower would lose its leader.
The row stands for the check-byte moment of a passing frame: the model's choice, log 8. -/
def Obligations.ConfigChannelStoresTheConfiguration : Prop :=
  ∀ (dt : Time) (q : Sys2Proof.Seq) (n : Fin 15) (d : Chan) (m : ChanMode) (g : Group) (pol : Polarity)
    (leader : Chan) (trig : ChanTrigger) (re : Retrigger) (act : Action)
    (mode polarity leaderByte trigger retrigger action : Byte) (s : State), Claims.takesOwn n q s →
    chanModeOf mode = some m → polarityOf polarity = some pol → actionOf action = some act →
    (m = .follow → leaderByte = byteOf leader.val) →
    (m = .oneshot → chanTriggerOf trigger = some trig ∧ retriggerOf retrigger = some re) →
    let p := Claims.taken dt q s
    let run (t : State) (result : CmdResult) (data : List Byte) : Prop :=
      exec (.configChannel dt .own q (byteOf d.val) mode (byteOf g.val) polarity leaderByte trigger
        retrigger action) s = .next (Claims.replied 0x21 q result data t)
    let c := s.chans[d]
    let present := s.groups[c.config.group].state
    let leads (x : ChanMode) : Prop := x = .width ∨ x = .oneshot ∨ x = .follow
    let running (f : Chan) : Prop := s.groups[s.chans[f].config.group].state ≠ .stopped ∧
      s.chans[f].config.mode = .follow ∧ s.chans[f].config.leader = some d
    (present ≠ .stopped → run p .state [byteOf c.config.group.val, groupStateCode present]) ∧
    (present = .stopped → s.groups[g].state ≠ .stopped → m = .follow → d ≤ leader →
      run p .badEntry [1, 0xFF]) ∧
    (present = .stopped → s.groups[g].state ≠ .stopped → m = .follow → leader < d →
      ¬leads s.chans[leader].config.mode → run p .badEntry [2, 0xFF]) ∧
    (present = .stopped → ¬leads m → ∀ f : Chan, running f → (∀ e : Chan, e < f → ¬running e) →
      run p .badEntry [3, byteOf f.val]) ∧
    (present = .stopped →
      (s.groups[g].state = .stopped ∨ m ≠ .follow ∨ (leader < d ∧ leads s.chans[leader].config.mode)) →
      (leads m ∨ ∀ f : Chan, ¬running f) →
      run { p with chans := s.chans.set d { c with
        config := { mode := m, group := g, polarity := pol,
                    leader := if m = .follow then some leader else none,
                    trigger := if m = .oneshot then some trig else none,
                    retrigger := if m = .oneshot then some re else none, action := act },
        latch := false, phase := false,
        override := if s.groups[g].state = .fallback ∨ s.groups[g].state = .resuming then
            match act with
            | .idle => .idle
            | .active => .active
            | .hold => .none
          else .none } } .ok [byteOf d.val])

/-- R75, R105, R106, R113 and R104: the group commands. CONFIG_GROUP writes a STOPPED group's commit sources, hold
limit and quiet trip; GROUP_STOP empties and idles every channel of each named group, posts nothing, and
may come by broadcast; GROUP_RESUME takes each named group from FALLBACK to RESUMING with hold count 0.
The row stands for the check-byte moment of a passing frame: the model's choice, log 8. -/
def Sys2Proof.Claims.GroupCommandsSetTheGroups : Prop :=
  ∀ (dt : Time) (q : Sys2Proof.Seq) (n : Fin 15) (s : State),
    let p := Claims.taken dt q s
    (∀ (g : Group) (sources : BitVec 4) (limit : Byte) (trip : Bool), Claims.takesOwn n q s →
      exec (.configGroup dt .own q (byteOf g.val) (sources.setWidth 8) limit (if trip then 1 else 0)) s =
        .next (if s.groups[g].state = .stopped then Claims.replied 0x22 q .ok [byteOf g.val] { p with
            groups := s.groups.set g { s.groups[g] with
              sources := sources, holdLimit := limit, quietTrip := trip } }
          else Claims.replied 0x22 q .state [groupStateCode s.groups[g].state] p)) ∧
    (∀ mask : GroupSet, ∃ t : State,
      (Claims.takesOwn n q s → exec (.groupStop dt .own q (mask.setWidth 8)) s =
        .next (Claims.replied 0x24 q .ok [mask.setWidth 8, 0] t)) ∧
      (Claims.takesBroadcast q s → exec (.groupStop dt .broadcast q (mask.setWidth 8)) s = .next t) ∧
      t = { p with groups := t.groups, chans := t.chans } ∧
      (∀ g : Group, t.groups[g] = if mask.getLsbD g.val then
        { s.groups[g] with state := .stopped, hold := 0, reason := none, endPending := false }
        else s.groups[g]) ∧
      ∀ d : Chan, t.chans[d] = if mask.getLsbD s.chans[d].config.group.val then { s.chans[d] with
          stage := { setpoint := none, delay := none, source := none,
                     overwrite := s.chans[d].stage.overwrite },
          armed := { setpoint := none, delay := none }, active := { setpoint := 0, delay := 0 },
          shot := .idle, latch := false, phase := false, override := .none }
        else s.chans[d]) ∧
    ∀ mask : GroupSet, Claims.takesOwn n q s →
      let acted (g : Group) : Bool := mask.getLsbD g.val && decide (s.groups[g].state = .fallback)
      ∃ (yes no : GroupSet) (t : State),
        exec (.groupResume dt .own q (mask.setWidth 8)) s = .next (Claims.replied 0x25 q
          (if no = 0 then .ok else .state) [yes.setWidth 8, no.setWidth 8] t) ∧
        t = { p with groups := t.groups } ∧
        ∀ g : Group, yes.getLsbD g.val = acted g ∧ no.getLsbD g.val = (mask.getLsbD g.val && !acted g) ∧
          t.groups[g] = if acted g then { s.groups[g] with state := .resuming, hold := 0 } else s.groups[g]

/-- R88, R91, R104 and R105: GROUP_START starts each named STOPPED group whose FOLLOW channels pass the leader
test, posts GROUP_RUN for each in order, and refuses the others by entry or by state; the reply names the
lowest group refused by entry, its first failing channel and the reason (ORDER 1, MODE 2).
The row stands for the check-byte moment of a passing frame: the model's choice, log 8. -/
def Obligations.GroupStartStartsItsGroups : Prop :=
  ∀ (dt : Time) (q : Sys2Proof.Seq) (n : Fin 15) (mask : GroupSet) (s : State), Claims.takesOwn n q s →
    let p := Claims.taken dt q s
    let acted (g : Group) : Bool := mask.getLsbD g.val && decide (s.groups[g].state = .stopped) &&
      Claims.leadersOk s.chans g
    let byEntry (g : Group) : Bool := mask.getLsbD g.val && decide (s.groups[g].state = .stopped) &&
      !Claims.leadersOk s.chans g
    let byState (g : Group) : Bool := mask.getLsbD g.val && decide (s.groups[g].state ≠ .stopped)
    ∃ (yes no : GroupSet) (rest : List Byte) (t : State),
      exec (.groupStart dt .own q (mask.setWidth 8)) s = .next (Claims.replied 0x23 q
        (if allGroups.any byEntry then .badEntry else if allGroups.any byState then .state else .ok)
        (yes.setWidth 8 :: no.setWidth 8 :: rest) t) ∧
      t = { p with groups := t.groups, chans := t.chans, events := t.events } ∧
      t.events = (allGroups.filter acted).foldl (fun b g => b.post s.cycle.number
        { code := .groupRun, subject := .group g, detail := .started }) p.events ∧
      (∀ g : Group, yes.getLsbD g.val = acted g ∧ no.getLsbD g.val = (byEntry g || byState g) ∧
        t.groups[g] = if acted g then
          { s.groups[g] with state := .run, hold := 0, reason := none, endPending := false }
          else s.groups[g]) ∧
      (∀ d : Chan, t.chans[d] = if acted s.chans[d].config.group then
        { s.chans[d] with shot := .idle, latch := false, phase := false, override := .none }
        else s.chans[d]) ∧
      (allGroups.any byEntry = false → rest = [0xFF, 0xFF, 0xFF]) ∧
      -- the lowest group refused by entry, its first failing channel and why
      let sound (f : Chan) : Prop := ∃ l : Chan, s.chans[f].config.leader = some l ∧ l < f ∧
        (s.chans[l].config.mode = .width ∨ s.chans[l].config.mode = .oneshot ∨
          s.chans[l].config.mode = .follow)
      ∀ (g : Group) (f : Chan), byEntry g = true → (∀ h : Group, h < g → byEntry h = false) →
        s.chans[f].config.group = g → s.chans[f].config.mode = .follow → ¬sound f →
        (∀ e : Chan, e < f → s.chans[e].config.group = g → s.chans[e].config.mode = .follow → sound e) →
        rest = [byteOf g.val, byteOf f.val,
          if ∃ l : Chan, s.chans[f].config.leader = some l ∧ l < f then 2 else 1]

/-- R76: COMMIT, own or broadcast, requests a MGMT commit for each named group in turn; the reply of an own one
holds the groups that committed, those without the source and those in the wrong state.
The row stands for the check-byte moment of a passing frame: the model's choice, log 8. -/
def Sys2Proof.Claims.CommitCommandRequestsItsGroups : Prop :=
  ∀ (dt : Time) (q : Sys2Proof.Seq) (n : Fin 15) (mask : GroupSet) (s : State),
    let p := Claims.taken dt q s
    let t := (allGroups.filter fun g => mask.getLsbD g.val).foldl (fun t g => t.requestCommit .mgmt g) p
    let source (g : Group) : Bool := s.groups[g].sources.getLsbD 2
    let active (g : Group) : Bool := decide (s.groups[g].state = .run ∨ s.groups[g].state = .resuming)
    (Claims.takesBroadcast q s → exec (.commit dt .broadcast q (mask.setWidth 8)) s = .next t) ∧
    (Claims.takesOwn n q s → ∃ yes noSource wrongState : GroupSet,
      exec (.commit dt .own q (mask.setWidth 8)) s = .next (Claims.replied 0x26 q
        (if yes = mask then .ok else .state)
        [yes.setWidth 8, noSource.setWidth 8, wrongState.setWidth 8] t) ∧
      ∀ g : Group, yes.getLsbD g.val = (mask.getLsbD g.val && source g && active g) ∧
        noSource.getLsbD g.val = (mask.getLsbD g.val && !source g) ∧
        wrongState.getLsbD g.val = (mask.getLsbD g.val && source g && !active g))

/-- R75, R76, R104 to R106 and R113: CONFIG_GROUP, GROUP_STOP, GROUP_RESUME and COMMIT. -/
def Obligations.GroupCommandsActOnTheirMasks : Prop :=
  Claims.GroupCommandsSetTheGroups ∧ Claims.CommitCommandRequestsItsGroups

/-- R128, R142, R144 and R145: CONFIG_CAPTURE starts its input afresh (and the model notes the moment, log 31); CONFIG_SAMPLER abandons a scan and takes
the configuration; SET_LIMITS sets a window and its trip mask and clears the outside flag; SAMPLE_NOW is a
trigger whatever the source names.
The row stands for the check-byte moment of a passing frame: the model's choice, log 8. -/
def Obligations.MeasurementCommandsConfigure : Prop :=
  ∀ (dt : Time) (q : Sys2Proof.Seq) (n : Fin 15) (s : State), Claims.takesOwn n q s →
    let p := Claims.taken dt q s
    let sampler (sm : Sampler) : State := { p with sampler := sm }
    let fresh (k : CapIn) (m : CaptureMode) (e : Edge) (f : Filter) : Capture :=
      { pin := s.caps[k].pin, mode := m, edge := if m = .period then some e else none, filter := f,
        filtered := if m = .off then none else some s.caps[k].pin, change := none,
        measure := match m with
          | .off => .off
          | .period => .unarmed
          | .high => .waiting
          | .low => .waiting
          | .count => .counting,
        running := 0, value := 0, status := .empty, seq := 0, configuredAt := some (s.now + dt) }
    (∀ (k : CapIn) (m : CaptureMode) (e : Edge) (f : Filter),
      exec (.configCapture dt .own q (byteOf k.val) (captureModeCode m) (edgeCode e) (byteOf f.width)) s =
        .next (Claims.replied 0x30 q .ok [byteOf k.val] { p with caps := s.caps.set k (fresh k m e f) })) ∧
    (∀ (settled : Bool) (list : List AnIn) (src : Option SamplerSource) (unused : List Byte),
      1 ≤ list.length → (list.map (fun a => byteOf a.val) ++ unused).length = 4 →
      let entries := list.map (fun a => byteOf a.val) ++ unused
      exec (.configSampler dt .own q (if settled then 2 else 1) (byteOf list.length) (entries.getD 0 0)
        (entries.getD 1 0) (entries.getD 2 0) (entries.getD 3 0) (samplerSourceCode src)) s =
        .next (Claims.replied 0x32 q .ok [if settled then 2 else 1] (sampler { s.sampler with
          mode := if settled then .settled else .immediate, list := list, source := src,
          scan := if settled then .asleep else .ready, overrun := 0 }))) ∧
    (∀ a b c d e f : Byte, exec (.configSampler dt .own q 0 a b c d e f) s =
      .next (Claims.replied 0x32 q .ok [0] (sampler { s.sampler with
        mode := .off, list := [], source := none, scan := .off, overrun := 0 }))) ∧
    (∀ (a : AnIn) (low high : BitVec 10) (trip : GroupSet), low ≤ high →
      exec (.setLimits dt .own q (byteOf a.val) (byteOf (low.toNat / 256)) (byteOf low.toNat)
        (byteOf (high.toNat / 256)) (byteOf high.toNat) (trip.setWidth 8)) s =
        .next (Claims.replied 0x33 q .ok [byteOf a.val] (sampler { s.sampler with
          inputs := s.sampler.inputs.set a { s.sampler.inputs[a] with
            low := low, high := high, trip := trip, outside := false } }))) ∧
    exec (.sampleNow dt .own q) s = .next (match s.sampler.scan with
      | .off => Claims.replied 0x34 q .state [0] p
      | .ready => Claims.replied 0x34 q .ok [4]
          (sampler { s.sampler with scan := .converting 0 (s.now + dt) })
      | .asleep => Claims.replied 0x34 q .ok [3]
          (sampler { s.sampler with scan := .settling (s.now + dt) })
      | .settling _ => Claims.replied 0x34 q .state [3]
          (sampler { s.sampler with overrun := satInc s.sampler.overrun })
      | .converting _ _ => Claims.replied 0x34 q .state [4]
          (sampler { s.sampler with overrun := satInc s.sampler.overrun }))

/-- R152 and R153: WRITE_SOURCE stores an item unless a map that holds it would exceed 16 bytes; WRITE_PUBMAP
stores a map unless its size exceeds 16; neither touches a buffer record.
The row stands for the check-byte moment of a passing frame: the model's choice, log 8. -/
def Obligations.PublishCommandsKeepMapsWithinSixteen : Prop :=
  ∀ (dt : Time) (q : Sys2Proof.Seq) (n : Fin 15) (s : State), Claims.takesOwn n q s →
    let p := Claims.taken dt q s
    (∀ (i : Fin 32) (item : SourceItem),
      let source := s.publish.source.set i item
      let tooLong (b : Buf) : Prop := s.publish.maps[b].first.val ≤ i.val ∧
        i.val < s.publish.maps[b].first.val + s.publish.maps[b].count.val ∧
        16 < mapSize source s.publish.maps[b]
      let run := exec (.writeSource dt .own q (byteOf i.val) (sourceKindCode item)
        ((sourceSelector item).getD 0xFF)) s
      ((∀ b : Buf, ¬tooLong b) → run = .next (Claims.replied 0x40 q .ok [byteOf i.val, byteOf item.size]
        { p with publish := { s.publish with source := source } })) ∧
      ∀ b : Buf, tooLong b → (∀ c : Buf, c < b → ¬tooLong c) →
        run = .next (Claims.replied 0x40 q .badEntry
          [byteOf b.val, byteOf (mapSize source s.publish.maps[b])] p)) ∧
    ∀ (b : Buf) (first : Fin 32) (count : Fin 9), first.val + count.val ≤ 32 →
      let m : PubMap := { first := first, count := count }
      let size := mapSize s.publish.source m
      exec (.writePubmap dt .own q (byteOf b.val) (byteOf first.val) (byteOf count.val)) s = .next (
        if 16 < size then Claims.replied 0x41 q .badEntry [byteOf size] p
        else Claims.replied 0x41 q .ok [byteOf b.val, byteOf size]
          { p with publish := { s.publish with maps := s.publish.maps.set b m } })

/-- R168, R169 and R191: a first operand out of range is refused with its position, 1, for one command of each
kind of operand: a code, a station-like number, a mask, a channel, an input, a view. The same PING by
broadcast only passes and records its sequence.
The row stands for the check-byte moment of a passing frame: the model's choice, log 8. -/
def Obligations.FaultyFirstOperandIsNamed : Prop :=
  ∀ (dt : Time) (q : Sys2Proof.Seq) (n : Fin 15) (b a c d e f g h i j : Byte) (s : State),
    Claims.takesOwn n q s →
    let p := Claims.taken dt q s
    let bad (code : Byte) : Host.Outcome State Fault Refusal :=
      .next (Claims.replied code q .badOperand [1] p)
    (3 ≤ b.toNat → exec (.setLine dt .own q b a) s = bad 0x05) ∧
    (2 ≤ b.toNat → exec (.readCounts dt .own q b) s = bad 0x03) ∧
    (64 ≤ b.toNat → exec (.writeTag dt .own q b a c d e f g h i j) s = bad 0x10) ∧
    (2 ≤ b.toNat → exec (.readTag dt .own q b a) s = bad 0x11) ∧
    (48 ≤ b.toNat → ∀ ds, (1 ≤ a.toNat → a.toNat ≤ 6 → ds.length = 2 * a.toNat) →
      exec (.writeUnpack dt .own q b a ds) s = bad 0x12) ∧
    (2 ≤ b.toNat → exec (.readUnpack dt .own q b a c) s = bad 0x13) ∧
    (4 ≤ b.toNat → exec (.configCycle dt .own q b a c d) s = bad 0x20) ∧
    (6 ≤ b.toNat → exec (.configChannel dt .own q b a c d e f g h) s = bad 0x21) ∧
    (4 ≤ b.toNat → exec (.configGroup dt .own q b a c d) s = bad 0x22) ∧
    (16 ≤ b.toNat → exec (.groupStart dt .own q b) s = bad 0x23 ∧
      exec (.groupStop dt .own q b) s = bad 0x24 ∧ exec (.groupResume dt .own q b) s = bad 0x25 ∧
      exec (.commit dt .own q b) s = bad 0x26) ∧
    (6 ≤ b.toNat → exec (.readChannel dt .own q b a) s = bad 0x27) ∧
    (4 ≤ b.toNat → exec (.configCapture dt .own q b a c d) s = bad 0x30 ∧
      exec (.readCapture dt .own q b) s = bad 0x31) ∧
    (3 ≤ b.toNat → exec (.configSampler dt .own q b a c d e f g) s = bad 0x32) ∧
    (4 ≤ b.toNat → exec (.setLimits dt .own q b a c d e f) s = bad 0x33) ∧
    (3 ≤ b.toNat → exec (.readSamples dt .own q b a) s = bad 0x35) ∧
    (32 ≤ b.toNat → exec (.writeSource dt .own q b a c) s = bad 0x40) ∧
    (8 ≤ b.toNat → exec (.writePubmap dt .own q b a c) s = bad 0x41) ∧
    (4 ≤ b.toNat → exec (.readPublish dt .own q b a c) s = bad 0x42) ∧
    exec (.ping dt .broadcast q) s = .next p

/-! ### Invariants that every step keeps -/

namespace Sys2Proof.Claims

/-- R182 and R183: at most 16 entries, with consecutive stamps that end before the next stamp. -/
def eventsOk (s : State) : Prop :=
  s.events.queue.length ≤ 16 ∧ ∀ i : Nat, ∀ e : Event, s.events.queue[i]? = some e →
    e.stamp = s.events.nextStamp - BitVec.ofNat 8 (s.events.queue.length - i)

/-- R26: at most 32 entries. -/
def relayOk (s : State) : Prop := s.relay.length ≤ 32

/-- R68, R91, R106: a channel of a STOPPED group has empty records, an active record of 0 and 0, no shot, no
latch, no phase and no override; a channel of a FALLBACK group has empty stage and armed records. -/
def channelOk (s : State) (d : Chan) : Prop :=
  let c := s.chans[d]
  let st := s.groups[c.config.group].state
  let empty := c.stage.setpoint = none ∧ c.stage.delay = none ∧ c.armed.setpoint = none ∧
    c.armed.delay = none
  (st = .fallback → empty) ∧
  (st = .stopped → empty ∧ c.active = { setpoint := 0, delay := 0 } ∧ c.shot = .idle ∧ c.latch = false ∧
    c.phase = false ∧ c.override = .none)

/-- R88: every FOLLOW channel of a group that is not STOPPED has a lower-numbered leader that may lead. -/
def followersOk (s : State) : Prop := ∀ g : Group, s.groups[g].state ≠ .stopped → leadersOk s.chans g = true

/-- R51 and R58: the active bank is sound, and neither bank holds a PUBLISH entry with forward DOWN. -/
def banksOk (s : State) : Prop :=
  bankSound s.tags.active ∧ ∀ tag : Tag,
    ¬(s.tags.active.entries[tag].role = .publish ∧ s.tags.active.entries[tag].forward = .down) ∧
    ¬(s.tags.shadow.entries[tag].role = .publish ∧ s.tags.shadow.entries[tag].forward = .down)

/-- R80, R132, R144, R152, R153: the period is 2-4096, the low limits are at most the high ones, and every
publish map lies in the source list and is at most 16 bytes long. -/
def settingsOk (s : State) : Prop :=
  2 ≤ s.cycle.period ∧ s.cycle.period ≤ 4096 ∧
  (∀ a : AnIn, s.sampler.inputs[a].low ≤ s.sampler.inputs[a].high) ∧
  ∀ b : Buf, s.publish.maps[b].first.val + s.publish.maps[b].count.val ≤ 32 ∧
    mapSize s.publish.source s.publish.maps[b] ≤ 16

end Sys2Proof.Claims

/-- R182 and R183: whatever is commanded, the event queue keeps the newest entries: at most 16, consecutive. -/
def Sys2Proof.Claims.StepKeepsEventStampsConsecutive : Prop :=
  ∀ s t : State, Claims.eventsOk s → step s = .next t → Claims.eventsOk t

/-- R26 and R27: whatever is commanded, the relay queue holds at most 32 entries. -/
def Sys2Proof.Claims.StepKeepsRelayQueueWithinThirtyTwo : Prop :=
  ∀ s t : State, Claims.relayOk s → step s = .next t → Claims.relayOk t

/-- R26, R27, R182 and R183: whatever is commanded, the two queues keep their bounds and the stamps stay consecutive. -/
def Obligations.StepKeepsQueuesWithinBounds : Prop :=
  Claims.StepKeepsEventStampsConsecutive ∧ Claims.StepKeepsRelayQueueWithinThirtyTwo

/-- R68: whatever is commanded, the stage slots and armed records of the channels of a STOPPED or FALLBACK
group are empty, and a channel of a STOPPED group is idle. -/
def Sys2Proof.Claims.StepKeepsStoppedAndFallbackRecordsEmpty : Prop :=
  ∀ s t : State, (∀ d : Chan, Claims.channelOk s d) → step s = .next t → ∀ d : Chan, Claims.channelOk t d

/-- R88: whatever is commanded, the follow chains of running groups go from lower to higher channels. -/
def Sys2Proof.Claims.StepKeepsFollowersBehindTheirLeaders : Prop :=
  ∀ s t : State, Claims.followersOk s → step s = .next t → Claims.followersOk t

/-- R68 and R88: whatever is commanded, stopped and fallen groups stay empty, and leaders stay below their followers. -/
def Obligations.StepKeepsDriveRecordsAndLeaders : Prop :=
  Claims.StepKeepsStoppedAndFallbackRecordsEmpty ∧ Claims.StepKeepsFollowersBehindTheirLeaders

/-- R51 and R58: whatever is commanded, the active tag bank stays sound. -/
def Obligations.StepKeepsTheActiveBankSound : Prop :=
  ∀ s t : State, Claims.banksOk s → step s = .next t → Claims.banksOk t

/-- R80, R132, R144, R152, R153: whatever is commanded, the settings stay within their ranges. -/
def Obligations.StepKeepsSettingsInRange : Prop :=
  ∀ s t : State, Claims.settingsOk s → step s = .next t → Claims.settingsOk t

/-- The invariants hold right after reset (straps and capture pins as logs 5 and 6 choose them). -/
def Obligations.ResetStateMeetsEveryInvariant : Prop :=
  Claims.eventsOk State.reset ∧ Claims.relayOk State.reset ∧
  (∀ d : Chan, Claims.channelOk State.reset d) ∧ Claims.followersOk State.reset ∧
  Claims.banksOk State.reset ∧ Claims.settingsOk State.reset
end

