-- ==== Sys2Proof/Laws/Frames.lean ====
section
/-!
SUPPORT. What each shared operation on channels, groups, inputs and events leaves as it was.
-/

namespace Sys2Proof.Machine

/-- A part of the state that no turn of a loop changes is as it was after the loop. -/
theorem foldl_field {α β γ : Type} (field : β → γ) (f : β → α → β)
    (h : ∀ b a, field (f b a) = field b) (l : List α) (b : β) : field (l.foldl f b) = field b := by
  induction l generalizing b with
  | nil => rfl
  | cons a l ih => exact (ih (f b a)).trans (h b a)

/-- Time passes and nothing else. -/
@[simp] theorem State.after_frame (dt : Time) (s : State) :
    (s.after dt).draws = s.draws ∧ (s.after dt).frames = s.frames ∧ (s.after dt).inReset = s.inReset ∧
    (s.after dt).straps = s.straps ∧ (s.after dt).up = s.up ∧ (s.after dt).fc = s.fc ∧
    (s.after dt).relay = s.relay ∧ (s.after dt).down = s.down ∧ (s.after dt).tags = s.tags ∧
    (s.after dt).chans = s.chans ∧ (s.after dt).groups = s.groups ∧ (s.after dt).lastMark = s.lastMark ∧
    (s.after dt).cycle = s.cycle ∧ (s.after dt).caps = s.caps ∧ (s.after dt).sampler = s.sampler ∧
    (s.after dt).publish = s.publish ∧ (s.after dt).mgmt = s.mgmt ∧ (s.after dt).events = s.events ∧
    (s.after dt).pending = s.pending := by
  and_intros <;> rfl

/-- An UP counter changes and nothing else. -/
@[simp] theorem State.countUp_frame (f : UpCounts → UpCounts) (s : State) :
    (s.countUp f).now = s.now ∧ (s.countUp f).draws = s.draws ∧ (s.countUp f).frames = s.frames ∧
    (s.countUp f).inReset = s.inReset ∧ (s.countUp f).straps = s.straps ∧ (s.countUp f).fc = s.fc ∧
    (s.countUp f).relay = s.relay ∧ (s.countUp f).down = s.down ∧ (s.countUp f).tags = s.tags ∧
    (s.countUp f).chans = s.chans ∧ (s.countUp f).groups = s.groups ∧
    (s.countUp f).lastMark = s.lastMark ∧ (s.countUp f).cycle = s.cycle ∧ (s.countUp f).caps = s.caps ∧
    (s.countUp f).sampler = s.sampler ∧ (s.countUp f).publish = s.publish ∧
    (s.countUp f).mgmt = s.mgmt ∧ (s.countUp f).events = s.events ∧ (s.countUp f).pending = s.pending ∧
    (s.countUp f).up.rx = s.up.rx ∧ (s.countUp f).up.tx = s.up.tx ∧ (s.countUp f).up.resp = s.up.resp ∧
    (s.countUp f).up.quiet = s.up.quiet ∧ (s.countUp f).up.quietSince = s.up.quietSince := by
  and_intros <;> rfl

/-- A DOWN counter changes and nothing else. -/
@[simp] theorem State.countDown_frame (f : DownCounts → DownCounts) (s : State) :
    (s.countDown f).now = s.now ∧ (s.countDown f).draws = s.draws ∧ (s.countDown f).frames = s.frames ∧
    (s.countDown f).inReset = s.inReset ∧ (s.countDown f).straps = s.straps ∧
    (s.countDown f).up = s.up ∧ (s.countDown f).fc = s.fc ∧ (s.countDown f).relay = s.relay ∧
    (s.countDown f).tags = s.tags ∧ (s.countDown f).chans = s.chans ∧
    (s.countDown f).groups = s.groups ∧ (s.countDown f).lastMark = s.lastMark ∧
    (s.countDown f).cycle = s.cycle ∧ (s.countDown f).caps = s.caps ∧
    (s.countDown f).sampler = s.sampler ∧ (s.countDown f).publish = s.publish ∧
    (s.countDown f).mgmt = s.mgmt ∧ (s.countDown f).events = s.events ∧
    (s.countDown f).pending = s.pending ∧ (s.countDown f).down.state = s.down.state ∧
    (s.countDown f).down.cur = s.down.cur ∧ (s.countDown f).down.since = s.down.since ∧
    (s.countDown f).down.tbit = s.down.tbit ∧ (s.countDown f).down.frame = s.down.frame ∧
    (s.countDown f).down.addr = s.down.addr ∧ (s.countDown f).down.abandoned = s.down.abandoned ∧
    (s.countDown f).down.respLeft = s.down.respLeft ∧ (s.countDown f).down.respSum = s.down.respSum ∧
    (s.countDown f).down.low = s.down.low := by
  and_intros <;> rfl

/-- UP MISMATCH changes and nothing else. -/
@[simp] theorem State.countMismatch_frame (s : State) :
    (s.countMismatch).now = s.now ∧ (s.countMismatch).draws = s.draws ∧
    (s.countMismatch).frames = s.frames ∧ (s.countMismatch).inReset = s.inReset ∧
    (s.countMismatch).straps = s.straps ∧ (s.countMismatch).fc = s.fc ∧
    (s.countMismatch).relay = s.relay ∧ (s.countMismatch).down = s.down ∧
    (s.countMismatch).tags = s.tags ∧ (s.countMismatch).chans = s.chans ∧
    (s.countMismatch).groups = s.groups ∧ (s.countMismatch).lastMark = s.lastMark ∧
    (s.countMismatch).cycle = s.cycle ∧ (s.countMismatch).caps = s.caps ∧
    (s.countMismatch).sampler = s.sampler ∧ (s.countMismatch).publish = s.publish ∧
    (s.countMismatch).mgmt = s.mgmt ∧ (s.countMismatch).events = s.events ∧
    (s.countMismatch).pending = s.pending ∧ (s.countMismatch).up.rx = s.up.rx ∧
    (s.countMismatch).up.tx = s.up.tx ∧ (s.countMismatch).up.resp = s.up.resp ∧
    (s.countMismatch).up.quiet = s.up.quiet ∧ (s.countMismatch).up.quietSince = s.up.quietSince := by
  and_intros <;> rfl

/-- UP REPEAT changes and nothing else. -/
@[simp] theorem State.countRepeat_frame (s : State) :
    (s.countRepeat).now = s.now ∧ (s.countRepeat).draws = s.draws ∧ (s.countRepeat).frames = s.frames ∧
    (s.countRepeat).inReset = s.inReset ∧ (s.countRepeat).straps = s.straps ∧
    (s.countRepeat).fc = s.fc ∧ (s.countRepeat).relay = s.relay ∧ (s.countRepeat).down = s.down ∧
    (s.countRepeat).tags = s.tags ∧ (s.countRepeat).chans = s.chans ∧
    (s.countRepeat).groups = s.groups ∧ (s.countRepeat).lastMark = s.lastMark ∧
    (s.countRepeat).cycle = s.cycle ∧ (s.countRepeat).caps = s.caps ∧
    (s.countRepeat).sampler = s.sampler ∧ (s.countRepeat).publish = s.publish ∧
    (s.countRepeat).mgmt = s.mgmt ∧ (s.countRepeat).events = s.events ∧
    (s.countRepeat).pending = s.pending ∧ (s.countRepeat).up.rx = s.up.rx ∧
    (s.countRepeat).up.tx = s.up.tx ∧ (s.countRepeat).up.resp = s.up.resp ∧
    (s.countRepeat).up.quiet = s.up.quiet ∧ (s.countRepeat).up.quietSince = s.up.quietSince := by
  and_intros <;> rfl

/-- One channel is written and nothing else. -/
@[simp] theorem State.setChan_frame (d : Chan) (c : Channel) (s : State) :
    (s.setChan d c).now = s.now ∧ (s.setChan d c).draws = s.draws ∧ (s.setChan d c).frames = s.frames ∧
    (s.setChan d c).inReset = s.inReset ∧ (s.setChan d c).straps = s.straps ∧
    (s.setChan d c).up = s.up ∧ (s.setChan d c).fc = s.fc ∧ (s.setChan d c).relay = s.relay ∧
    (s.setChan d c).down = s.down ∧ (s.setChan d c).tags = s.tags ∧ (s.setChan d c).groups = s.groups ∧
    (s.setChan d c).lastMark = s.lastMark ∧ (s.setChan d c).cycle = s.cycle ∧
    (s.setChan d c).caps = s.caps ∧ (s.setChan d c).sampler = s.sampler ∧
    (s.setChan d c).publish = s.publish ∧ (s.setChan d c).mgmt = s.mgmt ∧
    (s.setChan d c).events = s.events ∧ (s.setChan d c).pending = s.pending := by
  and_intros <;> rfl

/-- One group is written and nothing else. -/
@[simp] theorem State.setGroup_frame (g : Group) (r : GroupRec) (s : State) :
    (s.setGroup g r).now = s.now ∧ (s.setGroup g r).draws = s.draws ∧
    (s.setGroup g r).frames = s.frames ∧ (s.setGroup g r).inReset = s.inReset ∧
    (s.setGroup g r).straps = s.straps ∧ (s.setGroup g r).up = s.up ∧ (s.setGroup g r).fc = s.fc ∧
    (s.setGroup g r).relay = s.relay ∧ (s.setGroup g r).down = s.down ∧ (s.setGroup g r).tags = s.tags ∧
    (s.setGroup g r).chans = s.chans ∧ (s.setGroup g r).lastMark = s.lastMark ∧
    (s.setGroup g r).cycle = s.cycle ∧ (s.setGroup g r).caps = s.caps ∧
    (s.setGroup g r).sampler = s.sampler ∧ (s.setGroup g r).publish = s.publish ∧
    (s.setGroup g r).mgmt = s.mgmt ∧ (s.setGroup g r).events = s.events ∧
    (s.setGroup g r).pending = s.pending := by
  and_intros <;> rfl

/-- One capture input is written and nothing else. -/
@[simp] theorem State.setCap_frame (k : CapIn) (c : Capture) (s : State) :
    (s.setCap k c).now = s.now ∧ (s.setCap k c).draws = s.draws ∧ (s.setCap k c).frames = s.frames ∧
    (s.setCap k c).inReset = s.inReset ∧ (s.setCap k c).straps = s.straps ∧ (s.setCap k c).up = s.up ∧
    (s.setCap k c).fc = s.fc ∧ (s.setCap k c).relay = s.relay ∧ (s.setCap k c).down = s.down ∧
    (s.setCap k c).tags = s.tags ∧ (s.setCap k c).chans = s.chans ∧ (s.setCap k c).groups = s.groups ∧
    (s.setCap k c).lastMark = s.lastMark ∧ (s.setCap k c).cycle = s.cycle ∧
    (s.setCap k c).sampler = s.sampler ∧ (s.setCap k c).publish = s.publish ∧
    (s.setCap k c).mgmt = s.mgmt ∧ (s.setCap k c).events = s.events ∧
    (s.setCap k c).pending = s.pending := by
  and_intros <;> rfl

/-- A posting changes the event block only (R183). -/
@[simp] theorem State.post_frame (p : Posting) (s : State) :
    (s.post p).now = s.now ∧ (s.post p).draws = s.draws ∧ (s.post p).frames = s.frames ∧
    (s.post p).inReset = s.inReset ∧ (s.post p).straps = s.straps ∧ (s.post p).up = s.up ∧
    (s.post p).fc = s.fc ∧ (s.post p).relay = s.relay ∧ (s.post p).down = s.down ∧
    (s.post p).tags = s.tags ∧ (s.post p).chans = s.chans ∧ (s.post p).groups = s.groups ∧
    (s.post p).lastMark = s.lastMark ∧ (s.post p).cycle = s.cycle ∧ (s.post p).caps = s.caps ∧
    (s.post p).sampler = s.sampler ∧ (s.post p).publish = s.publish ∧ (s.post p).mgmt = s.mgmt ∧
    (s.post p).pending = s.pending := by
  and_intros <;> rfl

/-- Postings change the event block only. -/
@[simp] theorem State.postAll_frame (ps : List Posting) (s : State) :
    (s.postAll ps).now = s.now ∧ (s.postAll ps).draws = s.draws ∧ (s.postAll ps).frames = s.frames ∧
    (s.postAll ps).inReset = s.inReset ∧ (s.postAll ps).straps = s.straps ∧ (s.postAll ps).up = s.up ∧
    (s.postAll ps).fc = s.fc ∧ (s.postAll ps).relay = s.relay ∧ (s.postAll ps).down = s.down ∧
    (s.postAll ps).tags = s.tags ∧ (s.postAll ps).chans = s.chans ∧ (s.postAll ps).groups = s.groups ∧
    (s.postAll ps).lastMark = s.lastMark ∧ (s.postAll ps).cycle = s.cycle ∧
    (s.postAll ps).caps = s.caps ∧ (s.postAll ps).sampler = s.sampler ∧
    (s.postAll ps).publish = s.publish ∧ (s.postAll ps).mgmt = s.mgmt ∧
    (s.postAll ps).pending = s.pending := by
  induction ps generalizing s with
  | nil => and_intros <;> rfl
  | cons p ps ih => simpa [State.postAll] using ih (s.post p)

/-- A drawn choice of order changes the count of draws only. -/
@[simp] theorem State.drawn_frame (s : State) :
    (s.drawn).now = s.now ∧ (s.drawn).frames = s.frames ∧ (s.drawn).inReset = s.inReset ∧
    (s.drawn).straps = s.straps ∧ (s.drawn).up = s.up ∧ (s.drawn).fc = s.fc ∧
    (s.drawn).relay = s.relay ∧ (s.drawn).down = s.down ∧ (s.drawn).tags = s.tags ∧
    (s.drawn).chans = s.chans ∧ (s.drawn).groups = s.groups ∧ (s.drawn).lastMark = s.lastMark ∧
    (s.drawn).cycle = s.cycle ∧ (s.drawn).caps = s.caps ∧ (s.drawn).sampler = s.sampler ∧
    (s.drawn).publish = s.publish ∧ (s.drawn).mgmt = s.mgmt ∧ (s.drawn).events = s.events ∧
    (s.drawn).pending = s.pending := by
  and_intros <;> rfl

/-- Postings of two units change the event block only, and draw one free choice. -/
@[simp] theorem State.postBoth_frame (xs ys : List Posting) (s : State) :
    (s.postBoth xs ys).now = s.now ∧ (s.postBoth xs ys).frames = s.frames ∧
    (s.postBoth xs ys).inReset = s.inReset ∧ (s.postBoth xs ys).straps = s.straps ∧
    (s.postBoth xs ys).up = s.up ∧ (s.postBoth xs ys).fc = s.fc ∧ (s.postBoth xs ys).relay = s.relay ∧
    (s.postBoth xs ys).down = s.down ∧ (s.postBoth xs ys).tags = s.tags ∧
    (s.postBoth xs ys).chans = s.chans ∧ (s.postBoth xs ys).groups = s.groups ∧
    (s.postBoth xs ys).lastMark = s.lastMark ∧ (s.postBoth xs ys).cycle = s.cycle ∧
    (s.postBoth xs ys).caps = s.caps ∧ (s.postBoth xs ys).sampler = s.sampler ∧
    (s.postBoth xs ys).publish = s.publish ∧ (s.postBoth xs ys).mgmt = s.mgmt ∧
    (s.postBoth xs ys).pending = s.pending := by
  simp [State.postBoth]

/-- R37: the quiet timer and nothing else. -/
@[simp] theorem State.restartQuiet_frame (s : State) :
    (s.restartQuiet).now = s.now ∧ (s.restartQuiet).draws = s.draws ∧
    (s.restartQuiet).frames = s.frames ∧ (s.restartQuiet).inReset = s.inReset ∧
    (s.restartQuiet).straps = s.straps ∧ (s.restartQuiet).fc = s.fc ∧ (s.restartQuiet).relay = s.relay ∧
    (s.restartQuiet).down = s.down ∧ (s.restartQuiet).tags = s.tags ∧ (s.restartQuiet).chans = s.chans ∧
    (s.restartQuiet).groups = s.groups ∧ (s.restartQuiet).lastMark = s.lastMark ∧
    (s.restartQuiet).cycle = s.cycle ∧ (s.restartQuiet).caps = s.caps ∧
    (s.restartQuiet).sampler = s.sampler ∧ (s.restartQuiet).publish = s.publish ∧
    (s.restartQuiet).mgmt = s.mgmt ∧ (s.restartQuiet).events = s.events ∧
    (s.restartQuiet).pending = s.pending ∧ (s.restartQuiet).up.rx = s.up.rx ∧
    (s.restartQuiet).up.tx = s.up.tx ∧ (s.restartQuiet).up.resp = s.up.resp ∧
    (s.restartQuiet).up.counts = s.up.counts := by
  and_intros <;> rfl

/-- R20: a pass, before its posting, reaches the UP port only. -/
@[simp] theorem State.passed_frame (s : State) :
    (s.passed).now = s.now ∧ (s.passed).draws = s.draws ∧ (s.passed).frames = s.frames ∧
    (s.passed).inReset = s.inReset ∧ (s.passed).straps = s.straps ∧ (s.passed).fc = s.fc ∧
    (s.passed).relay = s.relay ∧ (s.passed).down = s.down ∧ (s.passed).tags = s.tags ∧
    (s.passed).chans = s.chans ∧ (s.passed).groups = s.groups ∧ (s.passed).lastMark = s.lastMark ∧
    (s.passed).cycle = s.cycle ∧ (s.passed).caps = s.caps ∧ (s.passed).sampler = s.sampler ∧
    (s.passed).publish = s.publish ∧ (s.passed).mgmt = s.mgmt ∧ (s.passed).events = s.events ∧
    (s.passed).pending = s.pending ∧ (s.passed).up.rx = s.up.rx ∧ (s.passed).up.tx = s.up.tx ∧
    (s.passed).up.resp = s.up.resp := by
  simp [State.passed]

/-- R20: a pass reaches the UP port and the event block only. -/
@[simp] theorem State.pass_frame (s : State) :
    (s.pass).now = s.now ∧ (s.pass).draws = s.draws ∧ (s.pass).frames = s.frames ∧
    (s.pass).inReset = s.inReset ∧ (s.pass).straps = s.straps ∧ (s.pass).fc = s.fc ∧
    (s.pass).relay = s.relay ∧ (s.pass).down = s.down ∧ (s.pass).tags = s.tags ∧
    (s.pass).chans = s.chans ∧ (s.pass).groups = s.groups ∧ (s.pass).lastMark = s.lastMark ∧
    (s.pass).cycle = s.cycle ∧ (s.pass).caps = s.caps ∧ (s.pass).sampler = s.sampler ∧
    (s.pass).publish = s.publish ∧ (s.pass).mgmt = s.mgmt ∧ (s.pass).pending = s.pending ∧
    (s.pass).up.rx = s.up.rx ∧ (s.pass).up.tx = s.up.tx ∧ (s.pass).up.resp = s.up.resp := by
  simp [State.pass]

/-- A sweep writes channels only. -/
@[simp] theorem State.drive_frame (own : Chan → Channel → Channel × Bool) (s : State) :
    (s.drive own).now = s.now ∧ (s.drive own).draws = s.draws ∧ (s.drive own).frames = s.frames ∧
    (s.drive own).inReset = s.inReset ∧ (s.drive own).straps = s.straps ∧ (s.drive own).up = s.up ∧
    (s.drive own).fc = s.fc ∧ (s.drive own).relay = s.relay ∧ (s.drive own).down = s.down ∧
    (s.drive own).tags = s.tags ∧ (s.drive own).groups = s.groups ∧
    (s.drive own).lastMark = s.lastMark ∧ (s.drive own).cycle = s.cycle ∧ (s.drive own).caps = s.caps ∧
    (s.drive own).sampler = s.sampler ∧ (s.drive own).publish = s.publish ∧
    (s.drive own).mgmt = s.mgmt ∧ (s.drive own).events = s.events ∧
    (s.drive own).pending = s.pending := by
  and_intros <;> rfl

/-- COMMIT triggers reach channels only. -/
@[simp] theorem State.triggerCommit_frame (g : Group) (s : State) :
    (s.triggerCommit g).now = s.now ∧ (s.triggerCommit g).draws = s.draws ∧
    (s.triggerCommit g).frames = s.frames ∧ (s.triggerCommit g).inReset = s.inReset ∧
    (s.triggerCommit g).straps = s.straps ∧ (s.triggerCommit g).up = s.up ∧
    (s.triggerCommit g).fc = s.fc ∧ (s.triggerCommit g).relay = s.relay ∧
    (s.triggerCommit g).down = s.down ∧ (s.triggerCommit g).tags = s.tags ∧
    (s.triggerCommit g).groups = s.groups ∧ (s.triggerCommit g).lastMark = s.lastMark ∧
    (s.triggerCommit g).cycle = s.cycle ∧ (s.triggerCommit g).caps = s.caps ∧
    (s.triggerCommit g).sampler = s.sampler ∧ (s.triggerCommit g).publish = s.publish ∧
    (s.triggerCommit g).mgmt = s.mgmt ∧ (s.triggerCommit g).events = s.events ∧
    (s.triggerCommit g).pending = s.pending := by
  simp [State.triggerCommit]

/-- CAPTURE triggers reach channels only. -/
@[simp] theorem State.triggerCapture_frame (k : CapIn) (s : State) :
    (s.triggerCapture k).now = s.now ∧ (s.triggerCapture k).draws = s.draws ∧
    (s.triggerCapture k).frames = s.frames ∧ (s.triggerCapture k).inReset = s.inReset ∧
    (s.triggerCapture k).straps = s.straps ∧ (s.triggerCapture k).up = s.up ∧
    (s.triggerCapture k).fc = s.fc ∧ (s.triggerCapture k).relay = s.relay ∧
    (s.triggerCapture k).down = s.down ∧ (s.triggerCapture k).tags = s.tags ∧
    (s.triggerCapture k).groups = s.groups ∧ (s.triggerCapture k).lastMark = s.lastMark ∧
    (s.triggerCapture k).cycle = s.cycle ∧ (s.triggerCapture k).caps = s.caps ∧
    (s.triggerCapture k).sampler = s.sampler ∧ (s.triggerCapture k).publish = s.publish ∧
    (s.triggerCapture k).mgmt = s.mgmt ∧ (s.triggerCapture k).events = s.events ∧
    (s.triggerCapture k).pending = s.pending := by
  simp [State.triggerCapture]

/-- R82: the channels' part of a cycle start. -/
@[simp] theorem State.driveCycleStart_frame (live : Vector Channel 6) (s : State) :
    (s.driveCycleStart live).now = s.now ∧ (s.driveCycleStart live).draws = s.draws ∧
    (s.driveCycleStart live).frames = s.frames ∧ (s.driveCycleStart live).inReset = s.inReset ∧
    (s.driveCycleStart live).straps = s.straps ∧ (s.driveCycleStart live).up = s.up ∧
    (s.driveCycleStart live).fc = s.fc ∧ (s.driveCycleStart live).relay = s.relay ∧
    (s.driveCycleStart live).down = s.down ∧ (s.driveCycleStart live).tags = s.tags ∧
    (s.driveCycleStart live).groups = s.groups ∧ (s.driveCycleStart live).lastMark = s.lastMark ∧
    (s.driveCycleStart live).cycle = s.cycle ∧ (s.driveCycleStart live).caps = s.caps ∧
    (s.driveCycleStart live).sampler = s.sampler ∧ (s.driveCycleStart live).publish = s.publish ∧
    (s.driveCycleStart live).mgmt = s.mgmt ∧ (s.driveCycleStart live).events = s.events ∧
    (s.driveCycleStart live).pending = s.pending := by
  simp [State.driveCycleStart]

/-- The channels of one group change and nothing else. -/
@[simp] theorem State.mapGroupChans_frame (g : Group) (f : Channel → Channel) (s : State) :
    (s.mapGroupChans g f).now = s.now ∧ (s.mapGroupChans g f).draws = s.draws ∧
    (s.mapGroupChans g f).frames = s.frames ∧ (s.mapGroupChans g f).inReset = s.inReset ∧
    (s.mapGroupChans g f).straps = s.straps ∧ (s.mapGroupChans g f).up = s.up ∧
    (s.mapGroupChans g f).fc = s.fc ∧ (s.mapGroupChans g f).relay = s.relay ∧
    (s.mapGroupChans g f).down = s.down ∧ (s.mapGroupChans g f).tags = s.tags ∧
    (s.mapGroupChans g f).groups = s.groups ∧ (s.mapGroupChans g f).lastMark = s.lastMark ∧
    (s.mapGroupChans g f).cycle = s.cycle ∧ (s.mapGroupChans g f).caps = s.caps ∧
    (s.mapGroupChans g f).sampler = s.sampler ∧ (s.mapGroupChans g f).publish = s.publish ∧
    (s.mapGroupChans g f).mgmt = s.mgmt ∧ (s.mapGroupChans g f).events = s.events ∧
    (s.mapGroupChans g f).pending = s.pending := by
  and_intros <;> rfl

/-- R111: the entry reaches the group and its channels only. -/
@[simp] theorem State.enterFallback_frame (g : Group) (c : Cause) (s : State) :
    (s.enterFallback g c).now = s.now ∧ (s.enterFallback g c).draws = s.draws ∧
    (s.enterFallback g c).frames = s.frames ∧ (s.enterFallback g c).inReset = s.inReset ∧
    (s.enterFallback g c).straps = s.straps ∧ (s.enterFallback g c).up = s.up ∧
    (s.enterFallback g c).fc = s.fc ∧ (s.enterFallback g c).relay = s.relay ∧
    (s.enterFallback g c).down = s.down ∧ (s.enterFallback g c).tags = s.tags ∧
    (s.enterFallback g c).lastMark = s.lastMark ∧ (s.enterFallback g c).cycle = s.cycle ∧
    (s.enterFallback g c).caps = s.caps ∧ (s.enterFallback g c).sampler = s.sampler ∧
    (s.enterFallback g c).publish = s.publish ∧ (s.enterFallback g c).mgmt = s.mgmt ∧
    (s.enterFallback g c).events = s.events ∧ (s.enterFallback g c).pending = s.pending := by
  simp [State.enterFallback]

/-- R110: a cause reaches the group and its channels only. -/
@[simp] theorem State.takeCause_frame (g : Group) (c : Cause) (s : State) :
    ((s.takeCause g c).1).now = s.now ∧ ((s.takeCause g c).1).draws = s.draws ∧
    ((s.takeCause g c).1).frames = s.frames ∧ ((s.takeCause g c).1).inReset = s.inReset ∧
    ((s.takeCause g c).1).straps = s.straps ∧ ((s.takeCause g c).1).up = s.up ∧
    ((s.takeCause g c).1).fc = s.fc ∧ ((s.takeCause g c).1).relay = s.relay ∧
    ((s.takeCause g c).1).down = s.down ∧ ((s.takeCause g c).1).tags = s.tags ∧
    ((s.takeCause g c).1).lastMark = s.lastMark ∧ ((s.takeCause g c).1).cycle = s.cycle ∧
    ((s.takeCause g c).1).caps = s.caps ∧ ((s.takeCause g c).1).sampler = s.sampler ∧
    ((s.takeCause g c).1).publish = s.publish ∧ ((s.takeCause g c).1).mgmt = s.mgmt ∧
    ((s.takeCause g c).1).events = s.events ∧ ((s.takeCause g c).1).pending = s.pending := by
  unfold State.takeCause; split <;> simp

/-- R117: causes reach groups and channels only. -/
@[simp] theorem State.takeCauses_frame (p : Group → Bool) (c : Cause) (s : State) :
    ((s.takeCauses p c).1).now = s.now ∧ ((s.takeCauses p c).1).draws = s.draws ∧
    ((s.takeCauses p c).1).frames = s.frames ∧ ((s.takeCauses p c).1).inReset = s.inReset ∧
    ((s.takeCauses p c).1).straps = s.straps ∧ ((s.takeCauses p c).1).up = s.up ∧
    ((s.takeCauses p c).1).fc = s.fc ∧ ((s.takeCauses p c).1).relay = s.relay ∧
    ((s.takeCauses p c).1).down = s.down ∧ ((s.takeCauses p c).1).tags = s.tags ∧
    ((s.takeCauses p c).1).lastMark = s.lastMark ∧ ((s.takeCauses p c).1).cycle = s.cycle ∧
    ((s.takeCauses p c).1).caps = s.caps ∧ ((s.takeCauses p c).1).sampler = s.sampler ∧
    ((s.takeCauses p c).1).publish = s.publish ∧ ((s.takeCauses p c).1).mgmt = s.mgmt ∧
    ((s.takeCauses p c).1).events = s.events ∧ ((s.takeCauses p c).1).pending = s.pending := by
  exact ⟨foldl_field (fun x : State × List Posting => x.1.now) _ (fun x g => by split <;> simp) _ _,
    foldl_field (fun x : State × List Posting => x.1.draws) _ (fun x g => by split <;> simp) _ _,
    foldl_field (fun x : State × List Posting => x.1.frames) _ (fun x g => by split <;> simp) _ _,
    foldl_field (fun x : State × List Posting => x.1.inReset) _ (fun x g => by split <;> simp) _ _,
    foldl_field (fun x : State × List Posting => x.1.straps) _ (fun x g => by split <;> simp) _ _,
    foldl_field (fun x : State × List Posting => x.1.up) _ (fun x g => by split <;> simp) _ _,
    foldl_field (fun x : State × List Posting => x.1.fc) _ (fun x g => by split <;> simp) _ _,
    foldl_field (fun x : State × List Posting => x.1.relay) _ (fun x g => by split <;> simp) _ _,
    foldl_field (fun x : State × List Posting => x.1.down) _ (fun x g => by split <;> simp) _ _,
    foldl_field (fun x : State × List Posting => x.1.tags) _ (fun x g => by split <;> simp) _ _,
    foldl_field (fun x : State × List Posting => x.1.lastMark) _ (fun x g => by split <;> simp) _ _,
    foldl_field (fun x : State × List Posting => x.1.cycle) _ (fun x g => by split <;> simp) _ _,
    foldl_field (fun x : State × List Posting => x.1.caps) _ (fun x g => by split <;> simp) _ _,
    foldl_field (fun x : State × List Posting => x.1.sampler) _ (fun x g => by split <;> simp) _ _,
    foldl_field (fun x : State × List Posting => x.1.publish) _ (fun x g => by split <;> simp) _ _,
    foldl_field (fun x : State × List Posting => x.1.mgmt) _ (fun x g => by split <;> simp) _ _,
    foldl_field (fun x : State × List Posting => x.1.events) _ (fun x g => by split <;> simp) _ _,
    foldl_field (fun x : State × List Posting => x.1.pending) _ (fun x g => by split <;> simp) _ _⟩

/-- R108: the hold check reaches the group and its channels only. -/
@[simp] theorem State.holdCheck_frame (g : Group) (s : State) :
    ((s.holdCheck g).1).now = s.now ∧ ((s.holdCheck g).1).draws = s.draws ∧
    ((s.holdCheck g).1).frames = s.frames ∧ ((s.holdCheck g).1).inReset = s.inReset ∧
    ((s.holdCheck g).1).straps = s.straps ∧ ((s.holdCheck g).1).up = s.up ∧
    ((s.holdCheck g).1).fc = s.fc ∧ ((s.holdCheck g).1).relay = s.relay ∧
    ((s.holdCheck g).1).down = s.down ∧ ((s.holdCheck g).1).tags = s.tags ∧
    ((s.holdCheck g).1).lastMark = s.lastMark ∧ ((s.holdCheck g).1).cycle = s.cycle ∧
    ((s.holdCheck g).1).caps = s.caps ∧ ((s.holdCheck g).1).sampler = s.sampler ∧
    ((s.holdCheck g).1).publish = s.publish ∧ ((s.holdCheck g).1).mgmt = s.mgmt ∧
    ((s.holdCheck g).1).events = s.events ∧ ((s.holdCheck g).1).pending = s.pending := by
  unfold State.holdCheck
  and_intros <;> (dsimp only; repeat' split) <;> simp

/-- R115: the end of fallback reaches the group and its channels only. -/
@[simp] theorem State.endFallback_frame (g : Group) (s : State) :
    ((s.endFallback g).1).now = s.now ∧ ((s.endFallback g).1).draws = s.draws ∧
    ((s.endFallback g).1).frames = s.frames ∧ ((s.endFallback g).1).inReset = s.inReset ∧
    ((s.endFallback g).1).straps = s.straps ∧ ((s.endFallback g).1).up = s.up ∧
    ((s.endFallback g).1).fc = s.fc ∧ ((s.endFallback g).1).relay = s.relay ∧
    ((s.endFallback g).1).down = s.down ∧ ((s.endFallback g).1).tags = s.tags ∧
    ((s.endFallback g).1).lastMark = s.lastMark ∧ ((s.endFallback g).1).cycle = s.cycle ∧
    ((s.endFallback g).1).caps = s.caps ∧ ((s.endFallback g).1).sampler = s.sampler ∧
    ((s.endFallback g).1).publish = s.publish ∧ ((s.endFallback g).1).mgmt = s.mgmt ∧
    ((s.endFallback g).1).events = s.events ∧ ((s.endFallback g).1).pending = s.pending := by
  unfold State.endFallback
  and_intros <;> (dsimp only; split) <;> simp

/-- R105: a start reaches the group, its channels and the event block. -/
@[simp] theorem State.startGroup_frame (g : Group) (s : State) :
    (s.startGroup g).now = s.now ∧ (s.startGroup g).draws = s.draws ∧
    (s.startGroup g).frames = s.frames ∧ (s.startGroup g).inReset = s.inReset ∧
    (s.startGroup g).straps = s.straps ∧ (s.startGroup g).up = s.up ∧ (s.startGroup g).fc = s.fc ∧
    (s.startGroup g).relay = s.relay ∧ (s.startGroup g).down = s.down ∧ (s.startGroup g).tags = s.tags ∧
    (s.startGroup g).lastMark = s.lastMark ∧ (s.startGroup g).cycle = s.cycle ∧
    (s.startGroup g).caps = s.caps ∧ (s.startGroup g).sampler = s.sampler ∧
    (s.startGroup g).publish = s.publish ∧ (s.startGroup g).mgmt = s.mgmt ∧
    (s.startGroup g).pending = s.pending := by
  simp [State.startGroup]

/-- R106: a stop reaches the group and its channels only. -/
@[simp] theorem State.stopGroup_frame (g : Group) (s : State) :
    (s.stopGroup g).now = s.now ∧ (s.stopGroup g).draws = s.draws ∧ (s.stopGroup g).frames = s.frames ∧
    (s.stopGroup g).inReset = s.inReset ∧ (s.stopGroup g).straps = s.straps ∧
    (s.stopGroup g).up = s.up ∧ (s.stopGroup g).fc = s.fc ∧ (s.stopGroup g).relay = s.relay ∧
    (s.stopGroup g).down = s.down ∧ (s.stopGroup g).tags = s.tags ∧
    (s.stopGroup g).lastMark = s.lastMark ∧ (s.stopGroup g).cycle = s.cycle ∧
    (s.stopGroup g).caps = s.caps ∧ (s.stopGroup g).sampler = s.sampler ∧
    (s.stopGroup g).publish = s.publish ∧ (s.stopGroup g).mgmt = s.mgmt ∧
    (s.stopGroup g).events = s.events ∧ (s.stopGroup g).pending = s.pending := by
  simp [State.stopGroup]

/-- R113: a resume reaches the group only. -/
@[simp] theorem State.resumeGroup_frame (g : Group) (s : State) :
    (s.resumeGroup g).now = s.now ∧ (s.resumeGroup g).draws = s.draws ∧
    (s.resumeGroup g).frames = s.frames ∧ (s.resumeGroup g).inReset = s.inReset ∧
    (s.resumeGroup g).straps = s.straps ∧ (s.resumeGroup g).up = s.up ∧ (s.resumeGroup g).fc = s.fc ∧
    (s.resumeGroup g).relay = s.relay ∧ (s.resumeGroup g).down = s.down ∧
    (s.resumeGroup g).tags = s.tags ∧ (s.resumeGroup g).chans = s.chans ∧
    (s.resumeGroup g).lastMark = s.lastMark ∧ (s.resumeGroup g).cycle = s.cycle ∧
    (s.resumeGroup g).caps = s.caps ∧ (s.resumeGroup g).sampler = s.sampler ∧
    (s.resumeGroup g).publish = s.publish ∧ (s.resumeGroup g).mgmt = s.mgmt ∧
    (s.resumeGroup g).events = s.events ∧ (s.resumeGroup g).pending = s.pending := by
  simp [State.resumeGroup]

/-- R63: a staged value reaches one channel only. -/
@[simp] theorem State.stageOne_frame (t : Tag) (v : Destined) (s : State) :
    (s.stageOne t v).now = s.now ∧ (s.stageOne t v).draws = s.draws ∧
    (s.stageOne t v).frames = s.frames ∧ (s.stageOne t v).inReset = s.inReset ∧
    (s.stageOne t v).straps = s.straps ∧ (s.stageOne t v).up = s.up ∧ (s.stageOne t v).fc = s.fc ∧
    (s.stageOne t v).relay = s.relay ∧ (s.stageOne t v).down = s.down ∧ (s.stageOne t v).tags = s.tags ∧
    (s.stageOne t v).groups = s.groups ∧ (s.stageOne t v).lastMark = s.lastMark ∧
    (s.stageOne t v).cycle = s.cycle ∧ (s.stageOne t v).caps = s.caps ∧
    (s.stageOne t v).sampler = s.sampler ∧ (s.stageOne t v).publish = s.publish ∧
    (s.stageOne t v).mgmt = s.mgmt ∧ (s.stageOne t v).events = s.events ∧
    (s.stageOne t v).pending = s.pending := by
  unfold State.stageOne
  and_intros <;> (dsimp only; split) <;> simp

/-- R62: staging reaches channels only. -/
@[simp] theorem State.stageAll_frame (t : Tag) (vs : List Destined) (s : State) :
    (vs.foldl (fun u v => u.stageOne t v) s).now = s.now ∧
    (vs.foldl (fun u v => u.stageOne t v) s).draws = s.draws ∧
    (vs.foldl (fun u v => u.stageOne t v) s).frames = s.frames ∧
    (vs.foldl (fun u v => u.stageOne t v) s).inReset = s.inReset ∧
    (vs.foldl (fun u v => u.stageOne t v) s).straps = s.straps ∧
    (vs.foldl (fun u v => u.stageOne t v) s).up = s.up ∧
    (vs.foldl (fun u v => u.stageOne t v) s).fc = s.fc ∧
    (vs.foldl (fun u v => u.stageOne t v) s).relay = s.relay ∧
    (vs.foldl (fun u v => u.stageOne t v) s).down = s.down ∧
    (vs.foldl (fun u v => u.stageOne t v) s).tags = s.tags ∧
    (vs.foldl (fun u v => u.stageOne t v) s).groups = s.groups ∧
    (vs.foldl (fun u v => u.stageOne t v) s).lastMark = s.lastMark ∧
    (vs.foldl (fun u v => u.stageOne t v) s).cycle = s.cycle ∧
    (vs.foldl (fun u v => u.stageOne t v) s).caps = s.caps ∧
    (vs.foldl (fun u v => u.stageOne t v) s).sampler = s.sampler ∧
    (vs.foldl (fun u v => u.stageOne t v) s).publish = s.publish ∧
    (vs.foldl (fun u v => u.stageOne t v) s).mgmt = s.mgmt ∧
    (vs.foldl (fun u v => u.stageOne t v) s).events = s.events ∧
    (vs.foldl (fun u v => u.stageOne t v) s).pending = s.pending := by
  induction vs generalizing s with
  | nil => and_intros <;> rfl
  | cons v vs ih => simpa using ih (s.stageOne t v)

/-- R63: discard counts only. -/
@[simp] theorem State.countDiscards_frame (vs : List Destined) (s : State) :
    (s.countDiscards vs).now = s.now ∧ (s.countDiscards vs).draws = s.draws ∧
    (s.countDiscards vs).frames = s.frames ∧ (s.countDiscards vs).inReset = s.inReset ∧
    (s.countDiscards vs).straps = s.straps ∧ (s.countDiscards vs).up = s.up ∧
    (s.countDiscards vs).fc = s.fc ∧ (s.countDiscards vs).relay = s.relay ∧
    (s.countDiscards vs).down = s.down ∧ (s.countDiscards vs).tags = s.tags ∧
    (s.countDiscards vs).chans = s.chans ∧ (s.countDiscards vs).lastMark = s.lastMark ∧
    (s.countDiscards vs).cycle = s.cycle ∧ (s.countDiscards vs).caps = s.caps ∧
    (s.countDiscards vs).sampler = s.sampler ∧ (s.countDiscards vs).publish = s.publish ∧
    (s.countDiscards vs).mgmt = s.mgmt ∧ (s.countDiscards vs).events = s.events ∧
    (s.countDiscards vs).pending = s.pending := by
  exact ⟨foldl_field (fun x : State => x.now) _ (fun x g => by split <;> simp) _ _,
    foldl_field (fun x : State => x.draws) _ (fun x g => by split <;> simp) _ _,
    foldl_field (fun x : State => x.frames) _ (fun x g => by split <;> simp) _ _,
    foldl_field (fun x : State => x.inReset) _ (fun x g => by split <;> simp) _ _,
    foldl_field (fun x : State => x.straps) _ (fun x g => by split <;> simp) _ _,
    foldl_field (fun x : State => x.up) _ (fun x g => by split <;> simp) _ _,
    foldl_field (fun x : State => x.fc) _ (fun x g => by split <;> simp) _ _,
    foldl_field (fun x : State => x.relay) _ (fun x g => by split <;> simp) _ _,
    foldl_field (fun x : State => x.down) _ (fun x g => by split <;> simp) _ _,
    foldl_field (fun x : State => x.tags) _ (fun x g => by split <;> simp) _ _,
    foldl_field (fun x : State => x.chans) _ (fun x g => by split <;> simp) _ _,
    foldl_field (fun x : State => x.lastMark) _ (fun x g => by split <;> simp) _ _,
    foldl_field (fun x : State => x.cycle) _ (fun x g => by split <;> simp) _ _,
    foldl_field (fun x : State => x.caps) _ (fun x g => by split <;> simp) _ _,
    foldl_field (fun x : State => x.sampler) _ (fun x g => by split <;> simp) _ _,
    foldl_field (fun x : State => x.publish) _ (fun x g => by split <;> simp) _ _,
    foldl_field (fun x : State => x.mgmt) _ (fun x g => by split <;> simp) _ _,
    foldl_field (fun x : State => x.events) _ (fun x g => by split <;> simp) _ _,
    foldl_field (fun x : State => x.pending) _ (fun x g => by split <;> simp) _ _⟩

/-- R62: a PUT reaches channels and discard counts only. -/
@[simp] theorem State.stagePut_frame (t : Tag) (d : List Byte) (u : List Descriptor) (s : State) :
    (s.stagePut t d u).now = s.now ∧ (s.stagePut t d u).draws = s.draws ∧
    (s.stagePut t d u).frames = s.frames ∧ (s.stagePut t d u).inReset = s.inReset ∧
    (s.stagePut t d u).straps = s.straps ∧ (s.stagePut t d u).up = s.up ∧ (s.stagePut t d u).fc = s.fc ∧
    (s.stagePut t d u).relay = s.relay ∧ (s.stagePut t d u).down = s.down ∧
    (s.stagePut t d u).tags = s.tags ∧ (s.stagePut t d u).lastMark = s.lastMark ∧
    (s.stagePut t d u).cycle = s.cycle ∧ (s.stagePut t d u).caps = s.caps ∧
    (s.stagePut t d u).sampler = s.sampler ∧ (s.stagePut t d u).publish = s.publish ∧
    (s.stagePut t d u).mgmt = s.mgmt ∧ (s.stagePut t d u).events = s.events ∧
    (s.stagePut t d u).pending = s.pending := by
  simp [State.stagePut]

/-- R67: a commit reaches one group and its channels only. -/
@[simp] theorem State.acceptCommit_frame (src : Source) (g : Group) (s : State) :
    (s.acceptCommit src g).now = s.now ∧ (s.acceptCommit src g).draws = s.draws ∧
    (s.acceptCommit src g).frames = s.frames ∧ (s.acceptCommit src g).inReset = s.inReset ∧
    (s.acceptCommit src g).straps = s.straps ∧ (s.acceptCommit src g).up = s.up ∧
    (s.acceptCommit src g).fc = s.fc ∧ (s.acceptCommit src g).relay = s.relay ∧
    (s.acceptCommit src g).down = s.down ∧ (s.acceptCommit src g).tags = s.tags ∧
    (s.acceptCommit src g).lastMark = s.lastMark ∧ (s.acceptCommit src g).cycle = s.cycle ∧
    (s.acceptCommit src g).caps = s.caps ∧ (s.acceptCommit src g).sampler = s.sampler ∧
    (s.acceptCommit src g).publish = s.publish ∧ (s.acceptCommit src g).mgmt = s.mgmt ∧
    (s.acceptCommit src g).events = s.events ∧ (s.acceptCommit src g).pending = s.pending := by
  unfold State.acceptCommit
  and_intros <;> (dsimp only; split) <;> simp

/-- R66: a request reaches one group and its channels only. -/
@[simp] theorem State.requestCommit_frame (src : Source) (g : Group) (s : State) :
    (s.requestCommit src g).now = s.now ∧ (s.requestCommit src g).draws = s.draws ∧
    (s.requestCommit src g).frames = s.frames ∧ (s.requestCommit src g).inReset = s.inReset ∧
    (s.requestCommit src g).straps = s.straps ∧ (s.requestCommit src g).up = s.up ∧
    (s.requestCommit src g).fc = s.fc ∧ (s.requestCommit src g).relay = s.relay ∧
    (s.requestCommit src g).down = s.down ∧ (s.requestCommit src g).tags = s.tags ∧
    (s.requestCommit src g).lastMark = s.lastMark ∧ (s.requestCommit src g).cycle = s.cycle ∧
    (s.requestCommit src g).caps = s.caps ∧ (s.requestCommit src g).sampler = s.sampler ∧
    (s.requestCommit src g).publish = s.publish ∧ (s.requestCommit src g).mgmt = s.mgmt ∧
    (s.requestCommit src g).events = s.events ∧ (s.requestCommit src g).pending = s.pending := by
  unfold State.requestCommit; split <;> simp

/-- R66: requests reach groups and channels only. -/
@[simp] theorem State.requestCommits_frame (src : Source) (p : Group → Bool) (s : State) :
    (s.requestCommits src p).now = s.now ∧ (s.requestCommits src p).draws = s.draws ∧
    (s.requestCommits src p).frames = s.frames ∧ (s.requestCommits src p).inReset = s.inReset ∧
    (s.requestCommits src p).straps = s.straps ∧ (s.requestCommits src p).up = s.up ∧
    (s.requestCommits src p).fc = s.fc ∧ (s.requestCommits src p).relay = s.relay ∧
    (s.requestCommits src p).down = s.down ∧ (s.requestCommits src p).tags = s.tags ∧
    (s.requestCommits src p).lastMark = s.lastMark ∧ (s.requestCommits src p).cycle = s.cycle ∧
    (s.requestCommits src p).caps = s.caps ∧ (s.requestCommits src p).sampler = s.sampler ∧
    (s.requestCommits src p).publish = s.publish ∧ (s.requestCommits src p).mgmt = s.mgmt ∧
    (s.requestCommits src p).events = s.events ∧ (s.requestCommits src p).pending = s.pending := by
  exact ⟨foldl_field (fun x : State => x.now) _ (fun x g => by split <;> simp) _ _,
    foldl_field (fun x : State => x.draws) _ (fun x g => by split <;> simp) _ _,
    foldl_field (fun x : State => x.frames) _ (fun x g => by split <;> simp) _ _,
    foldl_field (fun x : State => x.inReset) _ (fun x g => by split <;> simp) _ _,
    foldl_field (fun x : State => x.straps) _ (fun x g => by split <;> simp) _ _,
    foldl_field (fun x : State => x.up) _ (fun x g => by split <;> simp) _ _,
    foldl_field (fun x : State => x.fc) _ (fun x g => by split <;> simp) _ _,
    foldl_field (fun x : State => x.relay) _ (fun x g => by split <;> simp) _ _,
    foldl_field (fun x : State => x.down) _ (fun x g => by split <;> simp) _ _,
    foldl_field (fun x : State => x.tags) _ (fun x g => by split <;> simp) _ _,
    foldl_field (fun x : State => x.lastMark) _ (fun x g => by split <;> simp) _ _,
    foldl_field (fun x : State => x.cycle) _ (fun x g => by split <;> simp) _ _,
    foldl_field (fun x : State => x.caps) _ (fun x g => by split <;> simp) _ _,
    foldl_field (fun x : State => x.sampler) _ (fun x g => by split <;> simp) _ _,
    foldl_field (fun x : State => x.publish) _ (fun x g => by split <;> simp) _ _,
    foldl_field (fun x : State => x.mgmt) _ (fun x g => by split <;> simp) _ _,
    foldl_field (fun x : State => x.events) _ (fun x g => by split <;> simp) _ _,
    foldl_field (fun x : State => x.pending) _ (fun x g => by split <;> simp) _ _⟩

/-- R65: an accepted PUT reaches groups and channels only. -/
@[simp] theorem State.applyPut_frame (t : Tag) (d : List Byte) (c : EntryCopy) (s : State) :
    (s.applyPut t d c).now = s.now ∧ (s.applyPut t d c).draws = s.draws ∧
    (s.applyPut t d c).frames = s.frames ∧ (s.applyPut t d c).inReset = s.inReset ∧
    (s.applyPut t d c).straps = s.straps ∧ (s.applyPut t d c).up = s.up ∧ (s.applyPut t d c).fc = s.fc ∧
    (s.applyPut t d c).relay = s.relay ∧ (s.applyPut t d c).down = s.down ∧
    (s.applyPut t d c).tags = s.tags ∧ (s.applyPut t d c).lastMark = s.lastMark ∧
    (s.applyPut t d c).cycle = s.cycle ∧ (s.applyPut t d c).caps = s.caps ∧
    (s.applyPut t d c).sampler = s.sampler ∧ (s.applyPut t d c).publish = s.publish ∧
    (s.applyPut t d c).mgmt = s.mgmt ∧ (s.applyPut t d c).events = s.events ∧
    (s.applyPut t d c).pending = s.pending := by
  unfold State.applyPut
  and_intros <;> (dsimp only; split) <;> simp

/-- R69: the copy reaches channels only. -/
@[simp] theorem State.copyArmed_frame (s : State) :
    (s.copyArmed).now = s.now ∧ (s.copyArmed).draws = s.draws ∧ (s.copyArmed).frames = s.frames ∧
    (s.copyArmed).inReset = s.inReset ∧ (s.copyArmed).straps = s.straps ∧ (s.copyArmed).up = s.up ∧
    (s.copyArmed).fc = s.fc ∧ (s.copyArmed).relay = s.relay ∧ (s.copyArmed).down = s.down ∧
    (s.copyArmed).tags = s.tags ∧ (s.copyArmed).groups = s.groups ∧
    (s.copyArmed).lastMark = s.lastMark ∧ (s.copyArmed).cycle = s.cycle ∧ (s.copyArmed).caps = s.caps ∧
    (s.copyArmed).sampler = s.sampler ∧ (s.copyArmed).publish = s.publish ∧
    (s.copyArmed).mgmt = s.mgmt ∧ (s.copyArmed).events = s.events ∧
    (s.copyArmed).pending = s.pending := by
  and_intros <;> rfl

/-- R134: a trigger reaches the sampler only. -/
@[simp] theorem State.samplerEvent_frame (src : SamplerSource) (s : State) :
    (s.samplerEvent src).now = s.now ∧ (s.samplerEvent src).draws = s.draws ∧
    (s.samplerEvent src).frames = s.frames ∧ (s.samplerEvent src).inReset = s.inReset ∧
    (s.samplerEvent src).straps = s.straps ∧ (s.samplerEvent src).up = s.up ∧
    (s.samplerEvent src).fc = s.fc ∧ (s.samplerEvent src).relay = s.relay ∧
    (s.samplerEvent src).down = s.down ∧ (s.samplerEvent src).tags = s.tags ∧
    (s.samplerEvent src).chans = s.chans ∧ (s.samplerEvent src).groups = s.groups ∧
    (s.samplerEvent src).lastMark = s.lastMark ∧ (s.samplerEvent src).cycle = s.cycle ∧
    (s.samplerEvent src).caps = s.caps ∧ (s.samplerEvent src).publish = s.publish ∧
    (s.samplerEvent src).mgmt = s.mgmt ∧ (s.samplerEvent src).events = s.events ∧
    (s.samplerEvent src).pending = s.pending ∧ (s.samplerEvent src).sampler.inputs = s.sampler.inputs ∧
    (s.samplerEvent src).sampler.list = s.sampler.list ∧
    (s.samplerEvent src).sampler.mode = s.sampler.mode ∧
    (s.samplerEvent src).sampler.source = s.sampler.source := by
  unfold State.samplerEvent Sampler.trigger; (repeat' split) <;> simp

/-- R139: a limit check reaches the flag, the tripped groups and the event block. -/
@[simp] theorem State.limitCheck_frame (a : AnIn) (v : BitVec 10) (s : State) :
    (s.limitCheck a v).now = s.now ∧ (s.limitCheck a v).frames = s.frames ∧
    (s.limitCheck a v).inReset = s.inReset ∧ (s.limitCheck a v).straps = s.straps ∧
    (s.limitCheck a v).up = s.up ∧ (s.limitCheck a v).fc = s.fc ∧ (s.limitCheck a v).relay = s.relay ∧
    (s.limitCheck a v).down = s.down ∧ (s.limitCheck a v).tags = s.tags ∧
    (s.limitCheck a v).lastMark = s.lastMark ∧ (s.limitCheck a v).cycle = s.cycle ∧
    (s.limitCheck a v).caps = s.caps ∧ (s.limitCheck a v).publish = s.publish ∧
    (s.limitCheck a v).mgmt = s.mgmt ∧ (s.limitCheck a v).pending = s.pending := by
  unfold State.limitCheck
  and_intros <;> (dsimp only; repeat' split) <;> simp

/-- R137: a conversion reaches the sampler, the tripped groups and the event block. -/
@[simp] theorem State.convert_frame (p : Fin 4) (a : AnIn) (v : BitVec 10) (s : State) :
    (s.convert p a v).now = s.now ∧ (s.convert p a v).frames = s.frames ∧
    (s.convert p a v).inReset = s.inReset ∧ (s.convert p a v).straps = s.straps ∧
    (s.convert p a v).up = s.up ∧ (s.convert p a v).fc = s.fc ∧ (s.convert p a v).relay = s.relay ∧
    (s.convert p a v).down = s.down ∧ (s.convert p a v).tags = s.tags ∧
    (s.convert p a v).lastMark = s.lastMark ∧ (s.convert p a v).cycle = s.cycle ∧
    (s.convert p a v).caps = s.caps ∧ (s.convert p a v).publish = s.publish ∧
    (s.convert p a v).mgmt = s.mgmt ∧ (s.convert p a v).pending = s.pending := by
  simp [State.convert]

/-- R127: a capture event reaches channels and the sampler only. -/
@[simp] theorem State.captureEvent_frame (k : CapIn) (s : State) :
    (s.captureEvent k).now = s.now ∧ (s.captureEvent k).draws = s.draws ∧
    (s.captureEvent k).frames = s.frames ∧ (s.captureEvent k).inReset = s.inReset ∧
    (s.captureEvent k).straps = s.straps ∧ (s.captureEvent k).up = s.up ∧ (s.captureEvent k).fc = s.fc ∧
    (s.captureEvent k).relay = s.relay ∧ (s.captureEvent k).down = s.down ∧
    (s.captureEvent k).tags = s.tags ∧ (s.captureEvent k).groups = s.groups ∧
    (s.captureEvent k).lastMark = s.lastMark ∧ (s.captureEvent k).cycle = s.cycle ∧
    (s.captureEvent k).caps = s.caps ∧ (s.captureEvent k).publish = s.publish ∧
    (s.captureEvent k).mgmt = s.mgmt ∧ (s.captureEvent k).events = s.events ∧
    (s.captureEvent k).pending = s.pending := by
  simp [State.captureEvent]

/-- R120: a seen edge reaches the input, channels and the sampler only. -/
@[simp] theorem State.seeEdge_frame (k : CapIn) (l : Level) (s : State) :
    (s.seeEdge k l).now = s.now ∧ (s.seeEdge k l).draws = s.draws ∧ (s.seeEdge k l).frames = s.frames ∧
    (s.seeEdge k l).inReset = s.inReset ∧ (s.seeEdge k l).straps = s.straps ∧
    (s.seeEdge k l).up = s.up ∧ (s.seeEdge k l).fc = s.fc ∧ (s.seeEdge k l).relay = s.relay ∧
    (s.seeEdge k l).down = s.down ∧ (s.seeEdge k l).tags = s.tags ∧ (s.seeEdge k l).groups = s.groups ∧
    (s.seeEdge k l).lastMark = s.lastMark ∧ (s.seeEdge k l).cycle = s.cycle ∧
    (s.seeEdge k l).publish = s.publish ∧ (s.seeEdge k l).mgmt = s.mgmt ∧
    (s.seeEdge k l).events = s.events ∧ (s.seeEdge k l).pending = s.pending := by
  unfold State.seeEdge
  and_intros <;> (dsimp only; split) <;> simp

end Sys2Proof.Machine
end

