-- ==== Sys2Proof/Laws/FramesLine.lean ====
section
/-!
SUPPORT. What each shared operation of the cycle counter, the ports and the tables leaves as it was.
-/

namespace Sys2Proof.Machine

/-- R108, R115: the supervisor's work on one group. -/
@[simp] theorem Supervised.check_frame (g : Group) (a : Supervised) :
    ((a.check g).state).now = a.state.now ∧ ((a.check g).state).draws = a.state.draws ∧
    ((a.check g).state).frames = a.state.frames ∧ ((a.check g).state).inReset = a.state.inReset ∧
    ((a.check g).state).straps = a.state.straps ∧ ((a.check g).state).up = a.state.up ∧
    ((a.check g).state).fc = a.state.fc ∧ ((a.check g).state).relay = a.state.relay ∧
    ((a.check g).state).down = a.state.down ∧ ((a.check g).state).tags = a.state.tags ∧
    ((a.check g).state).lastMark = a.state.lastMark ∧ ((a.check g).state).cycle = a.state.cycle ∧
    ((a.check g).state).caps = a.state.caps ∧ ((a.check g).state).sampler = a.state.sampler ∧
    ((a.check g).state).publish = a.state.publish ∧ ((a.check g).state).mgmt = a.state.mgmt ∧
    ((a.check g).state).events = a.state.events ∧ ((a.check g).state).pending = a.state.pending := by
  simp [Supervised.check]

/-- R70: the AUTO request of one group. -/
@[simp] theorem Supervised.auto_frame (g : Group) (a : Supervised) :
    ((a.auto g).state).now = a.state.now ∧ ((a.auto g).state).draws = a.state.draws ∧
    ((a.auto g).state).frames = a.state.frames ∧ ((a.auto g).state).inReset = a.state.inReset ∧
    ((a.auto g).state).straps = a.state.straps ∧ ((a.auto g).state).up = a.state.up ∧
    ((a.auto g).state).fc = a.state.fc ∧ ((a.auto g).state).relay = a.state.relay ∧
    ((a.auto g).state).down = a.state.down ∧ ((a.auto g).state).tags = a.state.tags ∧
    ((a.auto g).state).lastMark = a.state.lastMark ∧ ((a.auto g).state).cycle = a.state.cycle ∧
    ((a.auto g).state).caps = a.state.caps ∧ ((a.auto g).state).sampler = a.state.sampler ∧
    ((a.auto g).state).publish = a.state.publish ∧ ((a.auto g).state).mgmt = a.state.mgmt ∧
    ((a.auto g).state).events = a.state.events ∧ ((a.auto g).state).pending = a.state.pending := by
  simp [Supervised.auto]

/-- R70, R108: one group at a cycle start, in either order. -/
@[simp] theorem Supervised.group_frame (n : Nat) (g : Group) (a : Supervised) :
    ((a.group n g).state).now = a.state.now ∧ ((a.group n g).state).draws = a.state.draws ∧
    ((a.group n g).state).frames = a.state.frames ∧ ((a.group n g).state).inReset = a.state.inReset ∧
    ((a.group n g).state).straps = a.state.straps ∧ ((a.group n g).state).up = a.state.up ∧
    ((a.group n g).state).fc = a.state.fc ∧ ((a.group n g).state).relay = a.state.relay ∧
    ((a.group n g).state).down = a.state.down ∧ ((a.group n g).state).tags = a.state.tags ∧
    ((a.group n g).state).lastMark = a.state.lastMark ∧ ((a.group n g).state).cycle = a.state.cycle ∧
    ((a.group n g).state).caps = a.state.caps ∧ ((a.group n g).state).sampler = a.state.sampler ∧
    ((a.group n g).state).publish = a.state.publish ∧ ((a.group n g).state).mgmt = a.state.mgmt ∧
    ((a.group n g).state).events = a.state.events ∧
    ((a.group n g).state).pending = a.state.pending := by
  unfold Supervised.group
  split
  · simp
  · simp

/-- R70, R108: the supervisor's cycle start reaches groups, channels and the event block. -/
@[simp] theorem State.supervise_frame (ps : List Posting) (s : State) :
    (s.supervise ps).now = s.now ∧ (s.supervise ps).frames = s.frames ∧ (s.supervise ps).inReset = s.inReset ∧
    (s.supervise ps).straps = s.straps ∧ (s.supervise ps).up = s.up ∧ (s.supervise ps).fc = s.fc ∧
    (s.supervise ps).relay = s.relay ∧ (s.supervise ps).down = s.down ∧ (s.supervise ps).tags = s.tags ∧
    (s.supervise ps).lastMark = s.lastMark ∧ (s.supervise ps).cycle = s.cycle ∧ (s.supervise ps).caps = s.caps ∧
    (s.supervise ps).sampler = s.sampler ∧ (s.supervise ps).publish = s.publish ∧
    (s.supervise ps).mgmt = s.mgmt ∧ (s.supervise ps).pending = s.pending := by
  unfold State.supervise
  dsimp only
  simp only [State.postBoth_frame]
  exact ⟨(foldl_field (fun a : Supervised => a.state.now) _ (fun a g => by simp) _ _).trans rfl,
    (foldl_field (fun a : Supervised => a.state.frames) _ (fun a g => by simp) _ _).trans rfl,
    (foldl_field (fun a : Supervised => a.state.inReset) _ (fun a g => by simp) _ _).trans rfl,
    (foldl_field (fun a : Supervised => a.state.straps) _ (fun a g => by simp) _ _).trans rfl,
    (foldl_field (fun a : Supervised => a.state.up) _ (fun a g => by simp) _ _).trans rfl,
    (foldl_field (fun a : Supervised => a.state.fc) _ (fun a g => by simp) _ _).trans rfl,
    (foldl_field (fun a : Supervised => a.state.relay) _ (fun a g => by simp) _ _).trans rfl,
    (foldl_field (fun a : Supervised => a.state.down) _ (fun a g => by simp) _ _).trans rfl,
    (foldl_field (fun a : Supervised => a.state.tags) _ (fun a g => by simp) _ _).trans rfl,
    (foldl_field (fun a : Supervised => a.state.lastMark) _ (fun a g => by simp) _ _).trans rfl,
    (foldl_field (fun a : Supervised => a.state.cycle) _ (fun a g => by simp) _ _).trans rfl,
    (foldl_field (fun a : Supervised => a.state.caps) _ (fun a g => by simp) _ _).trans rfl,
    (foldl_field (fun a : Supervised => a.state.sampler) _ (fun a g => by simp) _ _).trans rfl,
    (foldl_field (fun a : Supervised => a.state.publish) _ (fun a g => by simp) _ _).trans rfl,
    (foldl_field (fun a : Supervised => a.state.mgmt) _ (fun a g => by simp) _ _).trans rfl,
    (foldl_field (fun a : Supervised => a.state.pending) _ (fun a g => by simp) _ _).trans rfl⟩

/-- R82: the blocks that a cycle start reaches. -/
@[simp] theorem State.cycleStart_frame (ps : List Posting) (s : State) :
    (s.cycleStart ps).now = s.now ∧ (s.cycleStart ps).frames = s.frames ∧ (s.cycleStart ps).inReset = s.inReset ∧
    (s.cycleStart ps).straps = s.straps ∧ (s.cycleStart ps).up = s.up ∧ (s.cycleStart ps).fc = s.fc ∧
    (s.cycleStart ps).relay = s.relay ∧ (s.cycleStart ps).down = s.down ∧ (s.cycleStart ps).tags = s.tags ∧
    (s.cycleStart ps).lastMark = s.lastMark ∧ (s.cycleStart ps).cycle = s.cycle ∧
    (s.cycleStart ps).publish = s.publish ∧ (s.cycleStart ps).mgmt = s.mgmt ∧
    (s.cycleStart ps).pending = s.pending := by
  unfold State.cycleStart
  and_intros <;> (dsimp only; split) <;> simp

/-- The counter restarts and nothing else. -/
@[simp] theorem State.restartCount_frame (n : Byte) (s : State) :
    (s.restartCount n).now = s.now ∧ (s.restartCount n).draws = s.draws ∧
    (s.restartCount n).frames = s.frames ∧ (s.restartCount n).inReset = s.inReset ∧
    (s.restartCount n).straps = s.straps ∧ (s.restartCount n).up = s.up ∧ (s.restartCount n).fc = s.fc ∧
    (s.restartCount n).relay = s.relay ∧ (s.restartCount n).down = s.down ∧
    (s.restartCount n).tags = s.tags ∧ (s.restartCount n).chans = s.chans ∧
    (s.restartCount n).groups = s.groups ∧ (s.restartCount n).lastMark = s.lastMark ∧
    (s.restartCount n).caps = s.caps ∧ (s.restartCount n).sampler = s.sampler ∧
    (s.restartCount n).publish = s.publish ∧ (s.restartCount n).mgmt = s.mgmt ∧
    (s.restartCount n).events = s.events ∧ (s.restartCount n).pending = s.pending := by
  and_intros <;> rfl

/-- R83: a mark restart. -/
@[simp] theorem State.markRestart_frame (n : Byte) (ps : List Posting) (s : State) :
    (s.markRestart n ps).now = s.now ∧ (s.markRestart n ps).frames = s.frames ∧
    (s.markRestart n ps).inReset = s.inReset ∧ (s.markRestart n ps).straps = s.straps ∧
    (s.markRestart n ps).up = s.up ∧ (s.markRestart n ps).fc = s.fc ∧ (s.markRestart n ps).relay = s.relay ∧
    (s.markRestart n ps).down = s.down ∧ (s.markRestart n ps).tags = s.tags ∧
    (s.markRestart n ps).lastMark = s.lastMark ∧ (s.markRestart n ps).publish = s.publish ∧
    (s.markRestart n ps).mgmt = s.mgmt ∧ (s.markRestart n ps).pending = s.pending := by
  simp [State.markRestart]

/-- R72: a mark's restart, where it makes one. -/
@[simp] theorem State.markSync_frame (b : Bool) (n : Byte) (ps : List Posting) (s : State) :
    (s.markSync b n ps).now = s.now ∧ (s.markSync b n ps).frames = s.frames ∧
    (s.markSync b n ps).inReset = s.inReset ∧ (s.markSync b n ps).straps = s.straps ∧
    (s.markSync b n ps).up = s.up ∧ (s.markSync b n ps).fc = s.fc ∧ (s.markSync b n ps).relay = s.relay ∧
    (s.markSync b n ps).down = s.down ∧ (s.markSync b n ps).tags = s.tags ∧
    (s.markSync b n ps).lastMark = s.lastMark ∧ (s.markSync b n ps).publish = s.publish ∧
    (s.markSync b n ps).mgmt = s.mgmt ∧ (s.markSync b n ps).pending = s.pending := by
  unfold State.markSync; split <;> simp

/-- R72: an accepted MARK. -/
@[simp] theorem State.handleMark_frame (n : Byte) (m : GroupSet) (e : TagEntry) (ps : List Posting) (s : State) :
    (s.handleMark n m e ps).now = s.now ∧ (s.handleMark n m e ps).frames = s.frames ∧
    (s.handleMark n m e ps).inReset = s.inReset ∧ (s.handleMark n m e ps).straps = s.straps ∧
    (s.handleMark n m e ps).up = s.up ∧ (s.handleMark n m e ps).fc = s.fc ∧
    (s.handleMark n m e ps).relay = s.relay ∧ (s.handleMark n m e ps).down = s.down ∧
    (s.handleMark n m e ps).tags = s.tags ∧ (s.handleMark n m e ps).publish = s.publish ∧
    (s.handleMark n m e ps).mgmt = s.mgmt ∧ (s.handleMark n m e ps).pending = s.pending := by
  simp [State.handleMark]

/-- R84: an accepted CONFIG_CYCLE. -/
@[simp] theorem State.configCycle_frame (t : Tick) (p : Nat) (m : CycleMode) (s : State) :
    (s.configCycle t p m).now = s.now ∧ (s.configCycle t p m).frames = s.frames ∧
    (s.configCycle t p m).inReset = s.inReset ∧ (s.configCycle t p m).straps = s.straps ∧
    (s.configCycle t p m).up = s.up ∧ (s.configCycle t p m).fc = s.fc ∧
    (s.configCycle t p m).relay = s.relay ∧ (s.configCycle t p m).down = s.down ∧
    (s.configCycle t p m).tags = s.tags ∧ (s.configCycle t p m).lastMark = s.lastMark ∧
    (s.configCycle t p m).publish = s.publish ∧ (s.configCycle t p m).mgmt = s.mgmt ∧
    (s.configCycle t p m).pending = s.pending := by
  simp [State.configCycle]

/-- One buffer record is written and nothing else. -/
@[simp] theorem State.setRecord_frame (b : Buf) (r : PubRecord) (s : State) :
    (s.setRecord b r).now = s.now ∧ (s.setRecord b r).draws = s.draws ∧
    (s.setRecord b r).frames = s.frames ∧ (s.setRecord b r).inReset = s.inReset ∧
    (s.setRecord b r).straps = s.straps ∧ (s.setRecord b r).up = s.up ∧ (s.setRecord b r).fc = s.fc ∧
    (s.setRecord b r).relay = s.relay ∧ (s.setRecord b r).down = s.down ∧
    (s.setRecord b r).tags = s.tags ∧ (s.setRecord b r).chans = s.chans ∧
    (s.setRecord b r).groups = s.groups ∧ (s.setRecord b r).lastMark = s.lastMark ∧
    (s.setRecord b r).cycle = s.cycle ∧ (s.setRecord b r).caps = s.caps ∧
    (s.setRecord b r).sampler = s.sampler ∧ (s.setRecord b r).mgmt = s.mgmt ∧
    (s.setRecord b r).events = s.events ∧ (s.setRecord b r).pending = s.pending ∧
    (s.setRecord b r).publish.source = s.publish.source ∧
    (s.setRecord b r).publish.maps = s.publish.maps := by
  and_intros <;> rfl

/-- R155: a build writes one buffer record only. -/
@[simp] theorem State.buildSnapshot_frame (b : Buf) (s : State) :
    (s.buildSnapshot b).now = s.now ∧ (s.buildSnapshot b).draws = s.draws ∧
    (s.buildSnapshot b).frames = s.frames ∧ (s.buildSnapshot b).inReset = s.inReset ∧
    (s.buildSnapshot b).straps = s.straps ∧ (s.buildSnapshot b).up = s.up ∧
    (s.buildSnapshot b).fc = s.fc ∧ (s.buildSnapshot b).relay = s.relay ∧
    (s.buildSnapshot b).down = s.down ∧ (s.buildSnapshot b).tags = s.tags ∧
    (s.buildSnapshot b).chans = s.chans ∧ (s.buildSnapshot b).groups = s.groups ∧
    (s.buildSnapshot b).lastMark = s.lastMark ∧ (s.buildSnapshot b).cycle = s.cycle ∧
    (s.buildSnapshot b).caps = s.caps ∧ (s.buildSnapshot b).sampler = s.sampler ∧
    (s.buildSnapshot b).mgmt = s.mgmt ∧ (s.buildSnapshot b).events = s.events ∧
    (s.buildSnapshot b).pending = s.pending ∧ (s.buildSnapshot b).publish.source = s.publish.source ∧
    (s.buildSnapshot b).publish.maps = s.publish.maps := by
  and_intros <;> rfl

/-- R158: a serve writes one buffer record only. -/
@[simp] theorem State.served_frame (b : Buf) (s : State) :
    (s.served b).now = s.now ∧ (s.served b).draws = s.draws ∧ (s.served b).frames = s.frames ∧
    (s.served b).inReset = s.inReset ∧ (s.served b).straps = s.straps ∧ (s.served b).up = s.up ∧
    (s.served b).fc = s.fc ∧ (s.served b).relay = s.relay ∧ (s.served b).down = s.down ∧
    (s.served b).tags = s.tags ∧ (s.served b).chans = s.chans ∧ (s.served b).groups = s.groups ∧
    (s.served b).lastMark = s.lastMark ∧ (s.served b).cycle = s.cycle ∧ (s.served b).caps = s.caps ∧
    (s.served b).sampler = s.sampler ∧ (s.served b).mgmt = s.mgmt ∧ (s.served b).events = s.events ∧
    (s.served b).pending = s.pending ∧ (s.served b).publish.source = s.publish.source ∧
    (s.served b).publish.maps = s.publish.maps := by
  and_intros <;> rfl

/-- R159: a cut serve writes one buffer record only. -/
@[simp] theorem State.serveCut_frame (b : Buf) (s : State) :
    (s.serveCut b).now = s.now ∧ (s.serveCut b).draws = s.draws ∧ (s.serveCut b).frames = s.frames ∧
    (s.serveCut b).inReset = s.inReset ∧ (s.serveCut b).straps = s.straps ∧ (s.serveCut b).up = s.up ∧
    (s.serveCut b).fc = s.fc ∧ (s.serveCut b).relay = s.relay ∧ (s.serveCut b).down = s.down ∧
    (s.serveCut b).tags = s.tags ∧ (s.serveCut b).chans = s.chans ∧ (s.serveCut b).groups = s.groups ∧
    (s.serveCut b).lastMark = s.lastMark ∧ (s.serveCut b).cycle = s.cycle ∧
    (s.serveCut b).caps = s.caps ∧ (s.serveCut b).sampler = s.sampler ∧ (s.serveCut b).mgmt = s.mgmt ∧
    (s.serveCut b).events = s.events ∧ (s.serveCut b).pending = s.pending ∧
    (s.serveCut b).publish.source = s.publish.source ∧
    (s.serveCut b).publish.maps = s.publish.maps := by
  and_intros <;> rfl

/-- The frame context ends and nothing else. -/
@[simp] theorem State.finish_frame (o : FrameOutcome) (s : State) :
    (s.finish o).now = s.now ∧ (s.finish o).draws = s.draws ∧ (s.finish o).frames = s.frames ∧
    (s.finish o).inReset = s.inReset ∧ (s.finish o).straps = s.straps ∧ (s.finish o).up = s.up ∧
    (s.finish o).relay = s.relay ∧ (s.finish o).down = s.down ∧ (s.finish o).tags = s.tags ∧
    (s.finish o).chans = s.chans ∧ (s.finish o).groups = s.groups ∧ (s.finish o).lastMark = s.lastMark ∧
    (s.finish o).cycle = s.cycle ∧ (s.finish o).caps = s.caps ∧ (s.finish o).sampler = s.sampler ∧
    (s.finish o).publish = s.publish ∧ (s.finish o).mgmt = s.mgmt ∧ (s.finish o).events = s.events ∧
    (s.finish o).pending = s.pending := by
  and_intros <;> rfl

/-- The receiver state and the byte under way change, and nothing else. -/
@[simp] theorem State.setRx_frame (r : Rx) (s : State) :
    (s.setRx r).now = s.now ∧ (s.setRx r).draws = s.draws ∧ (s.setRx r).frames = s.frames ∧
    (s.setRx r).inReset = s.inReset ∧ (s.setRx r).straps = s.straps ∧ (s.setRx r).fc = s.fc ∧
    (s.setRx r).relay = s.relay ∧ (s.setRx r).down = s.down ∧ (s.setRx r).tags = s.tags ∧
    (s.setRx r).chans = s.chans ∧ (s.setRx r).groups = s.groups ∧ (s.setRx r).lastMark = s.lastMark ∧
    (s.setRx r).cycle = s.cycle ∧ (s.setRx r).caps = s.caps ∧ (s.setRx r).sampler = s.sampler ∧
    (s.setRx r).publish = s.publish ∧ (s.setRx r).mgmt = s.mgmt ∧ (s.setRx r).events = s.events ∧
    (s.setRx r).pending = s.pending ∧ (s.setRx r).up.tx = s.up.tx ∧ (s.setRx r).up.resp = s.up.resp ∧
    (s.setRx r).up.counts = s.up.counts ∧ (s.setRx r).up.quiet = s.up.quiet ∧
    (s.setRx r).up.quietSince = s.up.quietSince := by
  and_intros <;> rfl

/-- R28: the relay queue only. -/
@[simp] theorem State.dropEntries_frame (n : Nat) (s : State) :
    (s.dropEntries n).now = s.now ∧ (s.dropEntries n).draws = s.draws ∧
    (s.dropEntries n).frames = s.frames ∧ (s.dropEntries n).inReset = s.inReset ∧
    (s.dropEntries n).straps = s.straps ∧ (s.dropEntries n).up = s.up ∧ (s.dropEntries n).fc = s.fc ∧
    (s.dropEntries n).down = s.down ∧ (s.dropEntries n).tags = s.tags ∧
    (s.dropEntries n).chans = s.chans ∧ (s.dropEntries n).groups = s.groups ∧
    (s.dropEntries n).lastMark = s.lastMark ∧ (s.dropEntries n).cycle = s.cycle ∧
    (s.dropEntries n).caps = s.caps ∧ (s.dropEntries n).sampler = s.sampler ∧
    (s.dropEntries n).publish = s.publish ∧ (s.dropEntries n).mgmt = s.mgmt ∧
    (s.dropEntries n).events = s.events ∧ (s.dropEntries n).pending = s.pending := by
  and_intros <;> rfl

/-- R28: the frame context only. -/
@[simp] theorem State.dropRelay_frame (n : Nat) (s : State) :
    (s.dropRelay n).now = s.now ∧ (s.dropRelay n).draws = s.draws ∧ (s.dropRelay n).frames = s.frames ∧
    (s.dropRelay n).inReset = s.inReset ∧ (s.dropRelay n).straps = s.straps ∧
    (s.dropRelay n).up = s.up ∧ (s.dropRelay n).relay = s.relay ∧ (s.dropRelay n).down = s.down ∧
    (s.dropRelay n).tags = s.tags ∧ (s.dropRelay n).chans = s.chans ∧
    (s.dropRelay n).groups = s.groups ∧ (s.dropRelay n).lastMark = s.lastMark ∧
    (s.dropRelay n).cycle = s.cycle ∧ (s.dropRelay n).caps = s.caps ∧
    (s.dropRelay n).sampler = s.sampler ∧ (s.dropRelay n).publish = s.publish ∧
    (s.dropRelay n).mgmt = s.mgmt ∧ (s.dropRelay n).events = s.events ∧
    (s.dropRelay n).pending = s.pending := by
  unfold State.dropRelay
  and_intros <;> (dsimp only; repeat' split) <;> rfl

/-- R28: an abandoned relay reaches the context, the queue and the DOWN port only. -/
@[simp] theorem State.abandon_frame (n : Nat) (s : State) :
    (s.abandon n).now = s.now ∧ (s.abandon n).draws = s.draws ∧ (s.abandon n).frames = s.frames ∧
    (s.abandon n).inReset = s.inReset ∧ (s.abandon n).straps = s.straps ∧ (s.abandon n).up = s.up ∧
    (s.abandon n).tags = s.tags ∧ (s.abandon n).chans = s.chans ∧ (s.abandon n).groups = s.groups ∧
    (s.abandon n).lastMark = s.lastMark ∧ (s.abandon n).cycle = s.cycle ∧ (s.abandon n).caps = s.caps ∧
    (s.abandon n).sampler = s.sampler ∧ (s.abandon n).publish = s.publish ∧
    (s.abandon n).mgmt = s.mgmt ∧ (s.abandon n).events = s.events ∧
    (s.abandon n).pending = s.pending := by
  unfold State.abandon
  and_intros <;> (dsimp only; split) <;> simp

/-- DOWN CONFLICT changes and nothing else. -/
@[simp] theorem State.countDownConflict_frame (s : State) :
    (s.countDownConflict).now = s.now ∧ (s.countDownConflict).draws = s.draws ∧
    (s.countDownConflict).frames = s.frames ∧ (s.countDownConflict).inReset = s.inReset ∧
    (s.countDownConflict).straps = s.straps ∧ (s.countDownConflict).up = s.up ∧
    (s.countDownConflict).fc = s.fc ∧ (s.countDownConflict).relay = s.relay ∧
    (s.countDownConflict).tags = s.tags ∧ (s.countDownConflict).chans = s.chans ∧
    (s.countDownConflict).groups = s.groups ∧ (s.countDownConflict).lastMark = s.lastMark ∧
    (s.countDownConflict).cycle = s.cycle ∧ (s.countDownConflict).caps = s.caps ∧
    (s.countDownConflict).sampler = s.sampler ∧ (s.countDownConflict).publish = s.publish ∧
    (s.countDownConflict).mgmt = s.mgmt ∧ (s.countDownConflict).events = s.events ∧
    (s.countDownConflict).pending = s.pending ∧ (s.countDownConflict).down.state = s.down.state ∧
    (s.countDownConflict).down.cur = s.down.cur ∧ (s.countDownConflict).down.since = s.down.since ∧
    (s.countDownConflict).down.tbit = s.down.tbit ∧ (s.countDownConflict).down.frame = s.down.frame ∧
    (s.countDownConflict).down.addr = s.down.addr ∧
    (s.countDownConflict).down.abandoned = s.down.abandoned ∧
    (s.countDownConflict).down.respLeft = s.down.respLeft ∧
    (s.countDownConflict).down.respSum = s.down.respSum ∧
    (s.countDownConflict).down.low = s.down.low := by
  and_intros <;> rfl

/-- R32: the context, the queue and the DOWN port only. -/
@[simp] theorem State.stuckDrops_frame (n : Nat) (s : State) :
    (s.stuckDrops n).now = s.now ∧ (s.stuckDrops n).draws = s.draws ∧
    (s.stuckDrops n).frames = s.frames ∧ (s.stuckDrops n).inReset = s.inReset ∧
    (s.stuckDrops n).straps = s.straps ∧ (s.stuckDrops n).up = s.up ∧ (s.stuckDrops n).tags = s.tags ∧
    (s.stuckDrops n).chans = s.chans ∧ (s.stuckDrops n).groups = s.groups ∧
    (s.stuckDrops n).lastMark = s.lastMark ∧ (s.stuckDrops n).cycle = s.cycle ∧
    (s.stuckDrops n).caps = s.caps ∧ (s.stuckDrops n).sampler = s.sampler ∧
    (s.stuckDrops n).publish = s.publish ∧ (s.stuckDrops n).mgmt = s.mgmt ∧
    (s.stuckDrops n).events = s.events ∧ (s.stuckDrops n).pending = s.pending := by
  induction n generalizing s with
  | zero => simp [State.stuckDrops]
  | succ n ih =>
    unfold State.stuckDrops
    and_intros <;> (repeat' split) <;> simp [ih]

/-- R32: the context, the queue and the DOWN port only. -/
@[simp] theorem State.stuckDrop_frame (s : State) :
    (s.stuckDrop).now = s.now ∧ (s.stuckDrop).draws = s.draws ∧ (s.stuckDrop).frames = s.frames ∧
    (s.stuckDrop).inReset = s.inReset ∧ (s.stuckDrop).straps = s.straps ∧ (s.stuckDrop).up = s.up ∧
    (s.stuckDrop).tags = s.tags ∧ (s.stuckDrop).chans = s.chans ∧ (s.stuckDrop).groups = s.groups ∧
    (s.stuckDrop).lastMark = s.lastMark ∧ (s.stuckDrop).cycle = s.cycle ∧ (s.stuckDrop).caps = s.caps ∧
    (s.stuckDrop).sampler = s.sampler ∧ (s.stuckDrop).publish = s.publish ∧
    (s.stuckDrop).mgmt = s.mgmt ∧ (s.stuckDrop).events = s.events ∧
    (s.stuckDrop).pending = s.pending := by
  unfold State.stuckDrop; split <;> simp

/-- R30: the queue and the DOWN port only. -/
@[simp] theorem State.downNext_frame (s : State) :
    (s.downNext).now = s.now ∧ (s.downNext).draws = s.draws ∧ (s.downNext).frames = s.frames ∧
    (s.downNext).inReset = s.inReset ∧ (s.downNext).straps = s.straps ∧ (s.downNext).up = s.up ∧
    (s.downNext).fc = s.fc ∧ (s.downNext).tags = s.tags ∧ (s.downNext).chans = s.chans ∧
    (s.downNext).groups = s.groups ∧ (s.downNext).lastMark = s.lastMark ∧ (s.downNext).cycle = s.cycle ∧
    (s.downNext).caps = s.caps ∧ (s.downNext).sampler = s.sampler ∧ (s.downNext).publish = s.publish ∧
    (s.downNext).mgmt = s.mgmt ∧ (s.downNext).events = s.events ∧ (s.downNext).pending = s.pending := by
  unfold State.downNext; (repeat' split) <;> simp

/-- R26: an entry that joins reaches the queue, the context and the DOWN port only. -/
@[simp] theorem State.enqueue_frame (e : RelayEntry) (s : State) :
    (s.enqueue e).now = s.now ∧ (s.enqueue e).draws = s.draws ∧ (s.enqueue e).frames = s.frames ∧
    (s.enqueue e).inReset = s.inReset ∧ (s.enqueue e).straps = s.straps ∧ (s.enqueue e).up = s.up ∧
    (s.enqueue e).tags = s.tags ∧ (s.enqueue e).chans = s.chans ∧ (s.enqueue e).groups = s.groups ∧
    (s.enqueue e).lastMark = s.lastMark ∧ (s.enqueue e).cycle = s.cycle ∧ (s.enqueue e).caps = s.caps ∧
    (s.enqueue e).sampler = s.sampler ∧ (s.enqueue e).publish = s.publish ∧
    (s.enqueue e).mgmt = s.mgmt ∧ (s.enqueue e).events = s.events ∧
    (s.enqueue e).pending = s.pending := by
  unfold State.enqueue
  and_intros <;> (dsimp only; split) <;> simp

/-- R23: a head-sent byte that joins the queue, or meets a full one, before its posting. -/
@[simp] theorem State.joined_frame (v : Byte) (m : Marker) (s : State) :
    (s.joined v m).now = s.now ∧ (s.joined v m).draws = s.draws ∧
    (s.joined v m).frames = s.frames ∧ (s.joined v m).inReset = s.inReset ∧
    (s.joined v m).straps = s.straps ∧ (s.joined v m).up = s.up ∧ (s.joined v m).tags = s.tags ∧
    (s.joined v m).chans = s.chans ∧ (s.joined v m).groups = s.groups ∧
    (s.joined v m).lastMark = s.lastMark ∧ (s.joined v m).cycle = s.cycle ∧
    (s.joined v m).caps = s.caps ∧ (s.joined v m).sampler = s.sampler ∧
    (s.joined v m).publish = s.publish ∧ (s.joined v m).mgmt = s.mgmt ∧ (s.joined v m).events = s.events ∧
    (s.joined v m).pending = s.pending := by
  unfold State.joined; (repeat' split) <;> simp

/-- R23: a head-sent byte that joins the queue, or overruns it. -/
@[simp] theorem State.joinDown_frame (v : Byte) (m : Marker) (s : State) :
    (s.joinDown v m).now = s.now ∧ (s.joinDown v m).draws = s.draws ∧
    (s.joinDown v m).frames = s.frames ∧ (s.joinDown v m).inReset = s.inReset ∧
    (s.joinDown v m).straps = s.straps ∧ (s.joinDown v m).up = s.up ∧ (s.joinDown v m).tags = s.tags ∧
    (s.joinDown v m).chans = s.chans ∧ (s.joinDown v m).groups = s.groups ∧
    (s.joinDown v m).lastMark = s.lastMark ∧ (s.joinDown v m).cycle = s.cycle ∧
    (s.joinDown v m).caps = s.caps ∧ (s.joinDown v m).sampler = s.sampler ∧
    (s.joinDown v m).publish = s.publish ∧ (s.joinDown v m).mgmt = s.mgmt ∧
    (s.joinDown v m).pending = s.pending := by
  simp [State.joinDown]

/-- A byte begins on UP and nothing else. -/
@[simp] theorem State.sendUp_frame (v : Byte) (m : Marker) (s : State) :
    (s.sendUp v m).now = s.now ∧ (s.sendUp v m).draws = s.draws ∧ (s.sendUp v m).frames = s.frames ∧
    (s.sendUp v m).inReset = s.inReset ∧ (s.sendUp v m).straps = s.straps ∧ (s.sendUp v m).fc = s.fc ∧
    (s.sendUp v m).relay = s.relay ∧ (s.sendUp v m).down = s.down ∧ (s.sendUp v m).tags = s.tags ∧
    (s.sendUp v m).chans = s.chans ∧ (s.sendUp v m).groups = s.groups ∧
    (s.sendUp v m).lastMark = s.lastMark ∧ (s.sendUp v m).cycle = s.cycle ∧
    (s.sendUp v m).caps = s.caps ∧ (s.sendUp v m).sampler = s.sampler ∧
    (s.sendUp v m).publish = s.publish ∧ (s.sendUp v m).mgmt = s.mgmt ∧
    (s.sendUp v m).events = s.events ∧ (s.sendUp v m).pending = s.pending ∧
    (s.sendUp v m).up.rx = s.up.rx ∧ (s.sendUp v m).up.resp = s.up.resp ∧
    (s.sendUp v m).up.counts = s.up.counts ∧ (s.sendUp v m).up.quiet = s.up.quiet ∧
    (s.sendUp v m).up.quietSince = s.up.quietSince := by
  and_intros <;> rfl

/-- R35: the queue and the UP port only. -/
@[simp] theorem State.relayNext_frame (s : State) :
    (s.relayNext).now = s.now ∧ (s.relayNext).draws = s.draws ∧ (s.relayNext).frames = s.frames ∧
    (s.relayNext).inReset = s.inReset ∧ (s.relayNext).straps = s.straps ∧ (s.relayNext).fc = s.fc ∧
    (s.relayNext).down = s.down ∧ (s.relayNext).tags = s.tags ∧ (s.relayNext).chans = s.chans ∧
    (s.relayNext).groups = s.groups ∧ (s.relayNext).lastMark = s.lastMark ∧
    (s.relayNext).cycle = s.cycle ∧ (s.relayNext).caps = s.caps ∧ (s.relayNext).sampler = s.sampler ∧
    (s.relayNext).publish = s.publish ∧ (s.relayNext).mgmt = s.mgmt ∧ (s.relayNext).events = s.events ∧
    (s.relayNext).pending = s.pending := by
  unfold State.relayNext; split <;> simp

/-- R35: the queue and the UP port only. -/
@[simp] theorem State.joinUp_frame (v : Byte) (m : Marker) (s : State) :
    (s.joinUp v m).now = s.now ∧ (s.joinUp v m).draws = s.draws ∧ (s.joinUp v m).frames = s.frames ∧
    (s.joinUp v m).inReset = s.inReset ∧ (s.joinUp v m).straps = s.straps ∧ (s.joinUp v m).fc = s.fc ∧
    (s.joinUp v m).down = s.down ∧ (s.joinUp v m).tags = s.tags ∧ (s.joinUp v m).chans = s.chans ∧
    (s.joinUp v m).groups = s.groups ∧ (s.joinUp v m).lastMark = s.lastMark ∧
    (s.joinUp v m).cycle = s.cycle ∧ (s.joinUp v m).caps = s.caps ∧ (s.joinUp v m).sampler = s.sampler ∧
    (s.joinUp v m).publish = s.publish ∧ (s.joinUp v m).mgmt = s.mgmt ∧
    (s.joinUp v m).events = s.events ∧ (s.joinUp v m).pending = s.pending := by
  unfold State.joinUp
  and_intros <;> (dsimp only; repeat' split) <;> simp

/-- R35: the context and the DOWN port only. -/
@[simp] theorem State.endResponse_frame (s : State) :
    (s.endResponse).now = s.now ∧ (s.endResponse).draws = s.draws ∧ (s.endResponse).frames = s.frames ∧
    (s.endResponse).inReset = s.inReset ∧ (s.endResponse).straps = s.straps ∧
    (s.endResponse).up = s.up ∧ (s.endResponse).relay = s.relay ∧ (s.endResponse).tags = s.tags ∧
    (s.endResponse).chans = s.chans ∧ (s.endResponse).groups = s.groups ∧
    (s.endResponse).lastMark = s.lastMark ∧ (s.endResponse).cycle = s.cycle ∧
    (s.endResponse).caps = s.caps ∧ (s.endResponse).sampler = s.sampler ∧
    (s.endResponse).publish = s.publish ∧ (s.endResponse).mgmt = s.mgmt ∧
    (s.endResponse).events = s.events ∧ (s.endResponse).pending = s.pending := by
  unfold State.endResponse
  and_intros <;> (dsimp only; split) <;> simp

/-- R24: the context, the queue and the DOWN port only. -/
@[simp] theorem State.abandonLive_frame (s : State) :
    (s.abandonLive).now = s.now ∧ (s.abandonLive).draws = s.draws ∧ (s.abandonLive).frames = s.frames ∧
    (s.abandonLive).inReset = s.inReset ∧ (s.abandonLive).straps = s.straps ∧
    (s.abandonLive).up = s.up ∧ (s.abandonLive).tags = s.tags ∧ (s.abandonLive).chans = s.chans ∧
    (s.abandonLive).groups = s.groups ∧ (s.abandonLive).lastMark = s.lastMark ∧
    (s.abandonLive).cycle = s.cycle ∧ (s.abandonLive).caps = s.caps ∧
    (s.abandonLive).sampler = s.sampler ∧ (s.abandonLive).publish = s.publish ∧
    (s.abandonLive).mgmt = s.mgmt ∧ (s.abandonLive).events = s.events ∧
    (s.abandonLive).pending = s.pending := by
  unfold State.abandonLive; split <;> simp

/-- R24: a line error reaches the ports and the queue only. -/
@[simp] theorem State.lineError_frame (e : LineError) (s : State) :
    (s.lineError e).now = s.now ∧ (s.lineError e).draws = s.draws ∧ (s.lineError e).frames = s.frames ∧
    (s.lineError e).inReset = s.inReset ∧ (s.lineError e).straps = s.straps ∧
    (s.lineError e).tags = s.tags ∧ (s.lineError e).chans = s.chans ∧
    (s.lineError e).groups = s.groups ∧ (s.lineError e).lastMark = s.lastMark ∧
    (s.lineError e).cycle = s.cycle ∧ (s.lineError e).caps = s.caps ∧
    (s.lineError e).sampler = s.sampler ∧ (s.lineError e).publish = s.publish ∧
    (s.lineError e).mgmt = s.mgmt ∧ (s.lineError e).events = s.events ∧
    (s.lineError e).pending = s.pending := by
  simp [State.lineError]

/-- One runtime record is written and nothing else. -/
@[simp] theorem State.setRuntime_frame (t : Tag) (r : Runtime) (s : State) :
    (s.setRuntime t r).now = s.now ∧ (s.setRuntime t r).draws = s.draws ∧
    (s.setRuntime t r).frames = s.frames ∧ (s.setRuntime t r).inReset = s.inReset ∧
    (s.setRuntime t r).straps = s.straps ∧ (s.setRuntime t r).up = s.up ∧ (s.setRuntime t r).fc = s.fc ∧
    (s.setRuntime t r).relay = s.relay ∧ (s.setRuntime t r).down = s.down ∧
    (s.setRuntime t r).chans = s.chans ∧ (s.setRuntime t r).groups = s.groups ∧
    (s.setRuntime t r).lastMark = s.lastMark ∧ (s.setRuntime t r).cycle = s.cycle ∧
    (s.setRuntime t r).caps = s.caps ∧ (s.setRuntime t r).sampler = s.sampler ∧
    (s.setRuntime t r).publish = s.publish ∧ (s.setRuntime t r).mgmt = s.mgmt ∧
    (s.setRuntime t r).events = s.events ∧ (s.setRuntime t r).pending = s.pending ∧
    (s.setRuntime t r).tags.active = s.tags.active ∧ (s.setRuntime t r).tags.shadow = s.tags.shadow ∧
    (s.setRuntime t r).tags.generation = s.tags.generation := by
  and_intros <;> rfl

/-- R49: one runtime record only. -/
@[simp] theorem State.acceptFrame_frame (t : Tag) (g : Byte) (s : State) :
    (s.acceptFrame t g).now = s.now ∧ (s.acceptFrame t g).draws = s.draws ∧
    (s.acceptFrame t g).frames = s.frames ∧ (s.acceptFrame t g).inReset = s.inReset ∧
    (s.acceptFrame t g).straps = s.straps ∧ (s.acceptFrame t g).up = s.up ∧
    (s.acceptFrame t g).fc = s.fc ∧ (s.acceptFrame t g).relay = s.relay ∧
    (s.acceptFrame t g).down = s.down ∧ (s.acceptFrame t g).chans = s.chans ∧
    (s.acceptFrame t g).groups = s.groups ∧ (s.acceptFrame t g).lastMark = s.lastMark ∧
    (s.acceptFrame t g).cycle = s.cycle ∧ (s.acceptFrame t g).caps = s.caps ∧
    (s.acceptFrame t g).sampler = s.sampler ∧ (s.acceptFrame t g).publish = s.publish ∧
    (s.acceptFrame t g).mgmt = s.mgmt ∧ (s.acceptFrame t g).events = s.events ∧
    (s.acceptFrame t g).pending = s.pending ∧ (s.acceptFrame t g).tags.active = s.tags.active ∧
    (s.acceptFrame t g).tags.shadow = s.tags.shadow ∧
    (s.acceptFrame t g).tags.generation = s.tags.generation := by
  and_intros <;> rfl

/-- R48: one runtime record only. -/
@[simp] theorem State.acceptPut_frame (t : Tag) (q : Seq) (g : Byte) (s : State) :
    (s.acceptPut t q g).now = s.now ∧ (s.acceptPut t q g).draws = s.draws ∧
    (s.acceptPut t q g).frames = s.frames ∧ (s.acceptPut t q g).inReset = s.inReset ∧
    (s.acceptPut t q g).straps = s.straps ∧ (s.acceptPut t q g).up = s.up ∧
    (s.acceptPut t q g).fc = s.fc ∧ (s.acceptPut t q g).relay = s.relay ∧
    (s.acceptPut t q g).down = s.down ∧ (s.acceptPut t q g).chans = s.chans ∧
    (s.acceptPut t q g).groups = s.groups ∧ (s.acceptPut t q g).lastMark = s.lastMark ∧
    (s.acceptPut t q g).cycle = s.cycle ∧ (s.acceptPut t q g).caps = s.caps ∧
    (s.acceptPut t q g).sampler = s.sampler ∧ (s.acceptPut t q g).publish = s.publish ∧
    (s.acceptPut t q g).mgmt = s.mgmt ∧ (s.acceptPut t q g).events = s.events ∧
    (s.acceptPut t q g).pending = s.pending ∧ (s.acceptPut t q g).tags.active = s.tags.active ∧
    (s.acceptPut t q g).tags.shadow = s.tags.shadow ∧
    (s.acceptPut t q g).tags.generation = s.tags.generation := by
  and_intros <;> rfl

/-- R176, R178: the station and a posting. -/
@[simp] theorem State.setStation_frame (n : Option (Fin 15)) (s : State) :
    (s.setStation n).now = s.now ∧ (s.setStation n).draws = s.draws ∧
    (s.setStation n).frames = s.frames ∧ (s.setStation n).inReset = s.inReset ∧
    (s.setStation n).straps = s.straps ∧ (s.setStation n).up = s.up ∧ (s.setStation n).fc = s.fc ∧
    (s.setStation n).relay = s.relay ∧ (s.setStation n).down = s.down ∧ (s.setStation n).tags = s.tags ∧
    (s.setStation n).chans = s.chans ∧ (s.setStation n).groups = s.groups ∧
    (s.setStation n).lastMark = s.lastMark ∧ (s.setStation n).cycle = s.cycle ∧
    (s.setStation n).caps = s.caps ∧ (s.setStation n).sampler = s.sampler ∧
    (s.setStation n).publish = s.publish ∧ (s.setStation n).pending = s.pending := by
  simp [State.setStation]

/-- R78: counts of one channel and its group. -/
@[simp] theorem State.clearChannelCounts_frame (d : Chan) (s : State) :
    (s.clearChannelCounts d).now = s.now ∧ (s.clearChannelCounts d).draws = s.draws ∧
    (s.clearChannelCounts d).frames = s.frames ∧ (s.clearChannelCounts d).inReset = s.inReset ∧
    (s.clearChannelCounts d).straps = s.straps ∧ (s.clearChannelCounts d).up = s.up ∧
    (s.clearChannelCounts d).fc = s.fc ∧ (s.clearChannelCounts d).relay = s.relay ∧
    (s.clearChannelCounts d).down = s.down ∧ (s.clearChannelCounts d).tags = s.tags ∧
    (s.clearChannelCounts d).lastMark = s.lastMark ∧ (s.clearChannelCounts d).cycle = s.cycle ∧
    (s.clearChannelCounts d).caps = s.caps ∧ (s.clearChannelCounts d).sampler = s.sampler ∧
    (s.clearChannelCounts d).publish = s.publish ∧ (s.clearChannelCounts d).mgmt = s.mgmt ∧
    (s.clearChannelCounts d).events = s.events ∧ (s.clearChannelCounts d).pending = s.pending := by
  simp [State.clearChannelCounts]

/-- R21: the context and the relay path. -/
@[simp] theorem State.openFrame_frame (b : Byte) (h : Head) (c : Option EntryCopy) (w : FrameForward) (n : Bool) (s : State) :
    (s.openFrame b h c w n).now = s.now ∧ (s.openFrame b h c w n).draws = s.draws ∧
    (s.openFrame b h c w n).frames = s.frames ∧ (s.openFrame b h c w n).inReset = s.inReset ∧
    (s.openFrame b h c w n).straps = s.straps ∧ (s.openFrame b h c w n).up = s.up ∧
    (s.openFrame b h c w n).tags = s.tags ∧ (s.openFrame b h c w n).chans = s.chans ∧
    (s.openFrame b h c w n).groups = s.groups ∧ (s.openFrame b h c w n).lastMark = s.lastMark ∧
    (s.openFrame b h c w n).cycle = s.cycle ∧ (s.openFrame b h c w n).caps = s.caps ∧
    (s.openFrame b h c w n).sampler = s.sampler ∧ (s.openFrame b h c w n).publish = s.publish ∧
    (s.openFrame b h c w n).mgmt = s.mgmt ∧ (s.openFrame b h c w n).pending = s.pending := by
  simp [State.openFrame]

/-- R21, R46: the context, the relay path and UP MISMATCH. -/
@[simp] theorem State.openTagged_frame (b : Byte) (k : TagKind) (t : Tag) (s : State) :
    (s.openTagged b k t).now = s.now ∧ (s.openTagged b k t).draws = s.draws ∧
    (s.openTagged b k t).frames = s.frames ∧ (s.openTagged b k t).inReset = s.inReset ∧
    (s.openTagged b k t).straps = s.straps ∧ (s.openTagged b k t).tags = s.tags ∧
    (s.openTagged b k t).chans = s.chans ∧ (s.openTagged b k t).groups = s.groups ∧
    (s.openTagged b k t).lastMark = s.lastMark ∧ (s.openTagged b k t).cycle = s.cycle ∧
    (s.openTagged b k t).caps = s.caps ∧ (s.openTagged b k t).sampler = s.sampler ∧
    (s.openTagged b k t).publish = s.publish ∧ (s.openTagged b k t).mgmt = s.mgmt ∧
    (s.openTagged b k t).pending = s.pending := by
  unfold State.openTagged
  and_intros <;> (dsimp only; split) <;> simp

/-- R21: the ports and the event block only. -/
@[simp] theorem State.takeAddress_frame (b : Byte) (s : State) :
    (s.takeAddress b).now = s.now ∧ (s.takeAddress b).draws = s.draws ∧
    (s.takeAddress b).frames = s.frames ∧ (s.takeAddress b).inReset = s.inReset ∧
    (s.takeAddress b).straps = s.straps ∧ (s.takeAddress b).tags = s.tags ∧
    (s.takeAddress b).chans = s.chans ∧ (s.takeAddress b).groups = s.groups ∧
    (s.takeAddress b).lastMark = s.lastMark ∧ (s.takeAddress b).cycle = s.cycle ∧
    (s.takeAddress b).caps = s.caps ∧ (s.takeAddress b).sampler = s.sampler ∧
    (s.takeAddress b).publish = s.publish ∧ (s.takeAddress b).mgmt = s.mgmt ∧
    (s.takeAddress b).pending = s.pending := by
  unfold State.takeAddress; split <;> simp

/-- R33: the context and the response bytes. -/
@[simp] theorem State.respond_frame (d : List Byte) (s : State) :
    (s.respond d).now = s.now ∧ (s.respond d).draws = s.draws ∧ (s.respond d).frames = s.frames ∧
    (s.respond d).inReset = s.inReset ∧ (s.respond d).straps = s.straps ∧
    (s.respond d).relay = s.relay ∧ (s.respond d).down = s.down ∧ (s.respond d).tags = s.tags ∧
    (s.respond d).chans = s.chans ∧ (s.respond d).groups = s.groups ∧
    (s.respond d).lastMark = s.lastMark ∧ (s.respond d).cycle = s.cycle ∧ (s.respond d).caps = s.caps ∧
    (s.respond d).sampler = s.sampler ∧ (s.respond d).publish = s.publish ∧
    (s.respond d).mgmt = s.mgmt ∧ (s.respond d).events = s.events ∧ (s.respond d).pending = s.pending ∧
    (s.respond d).up.rx = s.up.rx ∧ (s.respond d).up.tx = s.up.tx ∧
    (s.respond d).up.counts = s.up.counts ∧ (s.respond d).up.quiet = s.up.quiet ∧
    (s.respond d).up.quietSince = s.up.quietSince := by
  and_intros <;> rfl

/-- R21: the context only. -/
@[simp] theorem State.listenUp_frame (n : Nat) (s : State) :
    (s.listenUp n).now = s.now ∧ (s.listenUp n).draws = s.draws ∧ (s.listenUp n).frames = s.frames ∧
    (s.listenUp n).inReset = s.inReset ∧ (s.listenUp n).straps = s.straps ∧ (s.listenUp n).up = s.up ∧
    (s.listenUp n).relay = s.relay ∧ (s.listenUp n).down = s.down ∧ (s.listenUp n).tags = s.tags ∧
    (s.listenUp n).chans = s.chans ∧ (s.listenUp n).groups = s.groups ∧
    (s.listenUp n).lastMark = s.lastMark ∧ (s.listenUp n).cycle = s.cycle ∧
    (s.listenUp n).caps = s.caps ∧ (s.listenUp n).sampler = s.sampler ∧
    (s.listenUp n).publish = s.publish ∧ (s.listenUp n).mgmt = s.mgmt ∧
    (s.listenUp n).events = s.events ∧ (s.listenUp n).pending = s.pending := by
  and_intros <;> rfl

/-- R154: the context and UP MISMATCH. -/
@[simp] theorem State.sizeMismatch_frame (s : State) :
    (s.sizeMismatch).now = s.now ∧ (s.sizeMismatch).draws = s.draws ∧
    (s.sizeMismatch).frames = s.frames ∧ (s.sizeMismatch).inReset = s.inReset ∧
    (s.sizeMismatch).straps = s.straps ∧ (s.sizeMismatch).relay = s.relay ∧
    (s.sizeMismatch).down = s.down ∧ (s.sizeMismatch).tags = s.tags ∧ (s.sizeMismatch).chans = s.chans ∧
    (s.sizeMismatch).groups = s.groups ∧ (s.sizeMismatch).lastMark = s.lastMark ∧
    (s.sizeMismatch).cycle = s.cycle ∧ (s.sizeMismatch).caps = s.caps ∧
    (s.sizeMismatch).sampler = s.sampler ∧ (s.sizeMismatch).publish = s.publish ∧
    (s.sizeMismatch).mgmt = s.mgmt ∧ (s.sizeMismatch).events = s.events ∧
    (s.sizeMismatch).pending = s.pending ∧ (s.sizeMismatch).up.rx = s.up.rx ∧
    (s.sizeMismatch).up.tx = s.up.tx ∧ (s.sizeMismatch).up.resp = s.up.resp ∧
    (s.sizeMismatch).up.quiet = s.up.quiet ∧ (s.sizeMismatch).up.quietSince = s.up.quietSince := by
  and_intros <;> rfl

/-- R21: the context only. -/
@[simp] theorem State.relayOrListen_frame (n : Nat) (s : State) :
    (s.relayOrListen n).now = s.now ∧ (s.relayOrListen n).draws = s.draws ∧
    (s.relayOrListen n).frames = s.frames ∧ (s.relayOrListen n).inReset = s.inReset ∧
    (s.relayOrListen n).straps = s.straps ∧ (s.relayOrListen n).up = s.up ∧
    (s.relayOrListen n).relay = s.relay ∧ (s.relayOrListen n).down = s.down ∧
    (s.relayOrListen n).tags = s.tags ∧ (s.relayOrListen n).chans = s.chans ∧
    (s.relayOrListen n).groups = s.groups ∧ (s.relayOrListen n).lastMark = s.lastMark ∧
    (s.relayOrListen n).cycle = s.cycle ∧ (s.relayOrListen n).caps = s.caps ∧
    (s.relayOrListen n).sampler = s.sampler ∧ (s.relayOrListen n).publish = s.publish ∧
    (s.relayOrListen n).mgmt = s.mgmt ∧ (s.relayOrListen n).events = s.events ∧
    (s.relayOrListen n).pending = s.pending := by
  unfold State.relayOrListen; split <;> simp

/-- R21: the context, the UP port and a snapshot. -/
@[simp] theorem State.settleAnswer_frame (h : Head) (n : Nat) (s : State) :
    (s.settleAnswer h n).now = s.now ∧ (s.settleAnswer h n).draws = s.draws ∧
    (s.settleAnswer h n).frames = s.frames ∧ (s.settleAnswer h n).inReset = s.inReset ∧
    (s.settleAnswer h n).straps = s.straps ∧ (s.settleAnswer h n).relay = s.relay ∧
    (s.settleAnswer h n).down = s.down ∧ (s.settleAnswer h n).tags = s.tags ∧
    (s.settleAnswer h n).chans = s.chans ∧ (s.settleAnswer h n).groups = s.groups ∧
    (s.settleAnswer h n).lastMark = s.lastMark ∧ (s.settleAnswer h n).cycle = s.cycle ∧
    (s.settleAnswer h n).caps = s.caps ∧ (s.settleAnswer h n).sampler = s.sampler ∧
    (s.settleAnswer h n).mgmt = s.mgmt ∧ (s.settleAnswer h n).events = s.events ∧
    (s.settleAnswer h n).pending = s.pending := by
  unfold State.settleAnswer
  and_intros <;> (repeat' (first | split | (dsimp only; split))) <;> simp

/-- R22: the context and the relay path. -/
@[simp] theorem State.releaseHeld_frame (s : State) :
    (s.releaseHeld).now = s.now ∧ (s.releaseHeld).draws = s.draws ∧ (s.releaseHeld).frames = s.frames ∧
    (s.releaseHeld).inReset = s.inReset ∧ (s.releaseHeld).straps = s.straps ∧
    (s.releaseHeld).up = s.up ∧ (s.releaseHeld).tags = s.tags ∧ (s.releaseHeld).chans = s.chans ∧
    (s.releaseHeld).groups = s.groups ∧ (s.releaseHeld).lastMark = s.lastMark ∧
    (s.releaseHeld).cycle = s.cycle ∧ (s.releaseHeld).caps = s.caps ∧
    (s.releaseHeld).sampler = s.sampler ∧ (s.releaseHeld).publish = s.publish ∧
    (s.releaseHeld).mgmt = s.mgmt ∧ (s.releaseHeld).pending = s.pending := by
  simp [State.releaseHeld]

/-- R21, R47: the context and UP MISMATCH. -/
@[simp] theorem State.recordLength_frame (b : Byte) (h : Option Head) (s : State) :
    (s.recordLength b h).now = s.now ∧ (s.recordLength b h).draws = s.draws ∧
    (s.recordLength b h).frames = s.frames ∧ (s.recordLength b h).inReset = s.inReset ∧
    (s.recordLength b h).straps = s.straps ∧ (s.recordLength b h).relay = s.relay ∧
    (s.recordLength b h).down = s.down ∧ (s.recordLength b h).tags = s.tags ∧
    (s.recordLength b h).chans = s.chans ∧ (s.recordLength b h).groups = s.groups ∧
    (s.recordLength b h).lastMark = s.lastMark ∧ (s.recordLength b h).cycle = s.cycle ∧
    (s.recordLength b h).caps = s.caps ∧ (s.recordLength b h).sampler = s.sampler ∧
    (s.recordLength b h).publish = s.publish ∧ (s.recordLength b h).mgmt = s.mgmt ∧
    (s.recordLength b h).events = s.events ∧ (s.recordLength b h).pending = s.pending := by
  unfold State.recordLength
  and_intros <;> (dsimp only; split) <;> simp

/-- R21: the ports, a snapshot and the event block only. -/
@[simp] theorem State.takeLength_frame (b : Byte) (s : State) :
    (s.takeLength b).now = s.now ∧ (s.takeLength b).draws = s.draws ∧
    (s.takeLength b).frames = s.frames ∧ (s.takeLength b).inReset = s.inReset ∧
    (s.takeLength b).straps = s.straps ∧ (s.takeLength b).tags = s.tags ∧
    (s.takeLength b).chans = s.chans ∧ (s.takeLength b).groups = s.groups ∧
    (s.takeLength b).lastMark = s.lastMark ∧ (s.takeLength b).cycle = s.cycle ∧
    (s.takeLength b).caps = s.caps ∧ (s.takeLength b).sampler = s.sampler ∧
    (s.takeLength b).mgmt = s.mgmt ∧ (s.takeLength b).pending = s.pending := by
  unfold State.takeLength
  and_intros <;> (dsimp only; repeat' split) <;> simp

/-- R22: the context and the relay path. -/
@[simp] theorem State.settlePending_frame (b : Byte) (s : State) :
    (s.settlePending b).now = s.now ∧ (s.settlePending b).draws = s.draws ∧
    (s.settlePending b).frames = s.frames ∧ (s.settlePending b).inReset = s.inReset ∧
    (s.settlePending b).straps = s.straps ∧ (s.settlePending b).up = s.up ∧
    (s.settlePending b).tags = s.tags ∧ (s.settlePending b).chans = s.chans ∧
    (s.settlePending b).groups = s.groups ∧ (s.settlePending b).lastMark = s.lastMark ∧
    (s.settlePending b).cycle = s.cycle ∧ (s.settlePending b).caps = s.caps ∧
    (s.settlePending b).sampler = s.sampler ∧ (s.settlePending b).publish = s.publish ∧
    (s.settlePending b).mgmt = s.mgmt ∧ (s.settlePending b).pending = s.pending := by
  unfold State.settlePending; split <;> simp

/-- R23: the ports and the event block only. -/
@[simp] theorem State.takeData_frame (b : Byte) (s : State) :
    (s.takeData b).now = s.now ∧ (s.takeData b).draws = s.draws ∧ (s.takeData b).frames = s.frames ∧
    (s.takeData b).inReset = s.inReset ∧ (s.takeData b).straps = s.straps ∧
    (s.takeData b).tags = s.tags ∧ (s.takeData b).chans = s.chans ∧ (s.takeData b).groups = s.groups ∧
    (s.takeData b).lastMark = s.lastMark ∧ (s.takeData b).cycle = s.cycle ∧
    (s.takeData b).caps = s.caps ∧ (s.takeData b).sampler = s.sampler ∧
    (s.takeData b).publish = s.publish ∧ (s.takeData b).mgmt = s.mgmt ∧
    (s.takeData b).pending = s.pending := by
  unfold State.takeData
  and_intros <;> (dsimp only; repeat' split) <;> simp

/-- R43: what a frame on a tag can reach. -/
@[simp] theorem State.tagEffect_frame (k : TagKind) (t : Tag) (c : EntryCopy) (s : State) :
    (s.tagEffect k t c).now = s.now ∧ (s.tagEffect k t c).frames = s.frames ∧
    (s.tagEffect k t c).inReset = s.inReset ∧ (s.tagEffect k t c).straps = s.straps ∧
    (s.tagEffect k t c).fc = s.fc ∧ (s.tagEffect k t c).relay = s.relay ∧
    (s.tagEffect k t c).down = s.down ∧ (s.tagEffect k t c).publish = s.publish ∧
    (s.tagEffect k t c).mgmt = s.mgmt ∧ (s.tagEffect k t c).pending = s.pending := by
  unfold State.tagEffect
  and_intros <;> (dsimp only; repeat' split) <;> simp

end Sys2Proof.Machine
end

