-- ==== Sys2Proof/Laws/Commands.lean ====
section
/-!
SUPPORT. What every management command, and the whole of a frame's end, leaves as it was: time, the
RESET pin, the straps, the frame ids and the queue of waiting commands.
-/

namespace Sys2Proof.Machine

/-- The parts that no command but RESET_ASSERT and RESET_RELEASE, a break and the queue itself change. -/
def State.carries (s t : State) : Prop :=
  t.now = s.now ∧ t.frames = s.frames ∧ t.inReset = s.inReset ∧ t.straps = s.straps ∧
    t.pending = s.pending

theorem State.carries_refl (s : State) : s.carries s := ⟨rfl, rfl, rfl, rfl, rfl⟩

theorem State.carries_trans {s t u : State} (h : s.carries t) (k : t.carries u) : s.carries u :=
  ⟨k.1.trans h.1, k.2.1.trans h.2.1, k.2.2.1.trans h.2.2.1, k.2.2.2.1.trans h.2.2.2.1,
    k.2.2.2.2.trans h.2.2.2.2⟩

/-- A rule whose operands are faulty changes nothing. -/
theorem checked_state (checks : List Check) (s : State) (act : Ruling) :
    (checked checks s act).state = s ∨ (checked checks s act).state = act.state := by
  unfold checked answer; split
  · exact .inl rfl
  · exact .inr rfl

theorem checked_carries {checks : List Check} {s : State} {act : Ruling} (h : s.carries act.state) :
    s.carries (checked checks s act).state := by
  rcases checked_state checks s act with e | e <;> rw [e]
  · exact s.carries_refl
  · exact h

/-- A loop over the groups carries what each of its turns carries. -/
theorem State.eachGroup_carries (p : Group → Bool) (f : Group → State → State)
    (h : ∀ g t, State.carries t (f g t)) (s : State) : s.carries (s.eachGroup p f) := by
  refine ⟨?_, ?_, ?_, ?_, ?_⟩
  · exact foldl_field (fun x : State => x.now) _
      (fun b g => by split; exacts [(h g b).1, rfl]) _ _
  · exact foldl_field (fun x : State => x.frames) _
      (fun b g => by split; exacts [(h g b).2.1, rfl]) _ _
  · exact foldl_field (fun x : State => x.inReset) _
      (fun b g => by split; exacts [(h g b).2.2.1, rfl]) _ _
  · exact foldl_field (fun x : State => x.straps) _
      (fun b g => by split; exacts [(h g b).2.2.2.1, rfl]) _ _
  · exact foldl_field (fun x : State => x.pending) _
      (fun b g => by split; exacts [(h g b).2.2.2.2, rfl]) _ _

theorem ruleWriteTag_carries (a b c d e f g h i j : Byte) (s : State) :
    s.carries (ruleWriteTag a b c d e f g h i j s).state := by
  refine checked_carries ?_
  dsimp only; split <;> exact s.carries_refl

theorem ruleSwapBanks_carries (s : State) : s.carries (ruleSwapBanks s).state := by
  unfold ruleSwapBanks; split <;> simp [State.carries, answer]

theorem ruleConfigCycle_carries (a b c d : Byte) (s : State) :
    s.carries (ruleConfigCycle a b c d s).state := by
  refine checked_carries ?_
  dsimp only; split <;> simp [State.carries, answer]

theorem ruleConfigChannel_carries (a b c d e f g h : Byte) (s : State) :
    s.carries (ruleConfigChannel a b c d e f g h s).state := by
  refine checked_carries ?_
  dsimp only; split
  · exact s.carries_refl
  · split <;> simp [State.carries, answer]

theorem ruleConfigGroup_carries (a b c d : Byte) (s : State) :
    s.carries (ruleConfigGroup a b c d s).state := by
  refine checked_carries ?_
  dsimp only; split <;> simp [State.carries, answer]

theorem ruleGroupStart_carries (m : Byte) (s : State) : s.carries (ruleGroupStart m s).state :=
  checked_carries (s.eachGroup_carries _ _ fun g t => by simp [State.carries])

theorem ruleGroupStop_carries (m : Byte) (s : State) : s.carries (ruleGroupStop m s).state :=
  checked_carries (s.eachGroup_carries _ _ fun g t => by simp [State.carries])

theorem ruleGroupResume_carries (m : Byte) (s : State) : s.carries (ruleGroupResume m s).state :=
  checked_carries (s.eachGroup_carries _ _ fun g t => by simp [State.carries])

theorem ruleCommit_carries (m : Byte) (s : State) : s.carries (ruleCommit m s).state := by
  refine checked_carries ?_
  simp [State.carries]

theorem ruleReadChannel_carries (a b : Byte) (s : State) : s.carries (ruleReadChannel a b s).state := by
  refine checked_carries ?_
  dsimp only; split
  · exact s.carries_refl
  · dsimp only; split <;> simp [State.carries]

theorem ruleReadSamples_carries (a b : Byte) (s : State) : s.carries (ruleReadSamples a b s).state := by
  refine checked_carries ?_
  dsimp only; repeat' split
  all_goals exact s.carries_refl

theorem ruleWriteSource_carries (a b c : Byte) (s : State) :
    s.carries (ruleWriteSource a b c s).state := by
  refine checked_carries ?_
  dsimp only; split <;> exact s.carries_refl

theorem ruleWritePubmap_carries (a b c : Byte) (s : State) :
    s.carries (ruleWritePubmap a b c s).state := by
  refine checked_carries ?_
  dsimp only; split <;> exact s.carries_refl

theorem ruleReadPublish_carries (a b c : Byte) (s : State) :
    s.carries (ruleReadPublish a b c s).state := by
  refine checked_carries ?_
  dsimp only; repeat' split
  · exact s.carries_refl
  · exact s.carries_refl
  · exact s.carries_refl
  · unfold rulePublishSource; dsimp only; split <;> exact s.carries_refl

theorem ruleAssignStation_carries (v : Via) (a : Byte) (s : State) :
    s.carries (ruleAssignStation v a s).state := by
  unfold ruleAssignStation; split
  · exact s.carries_refl
  · split
    · exact s.carries_refl
    · exact checked_carries (by simp [State.carries])

theorem ruleEventAck_carries (a : Byte) (s : State) : s.carries (ruleEventAck a s).state := by
  unfold ruleEventAck; dsimp only; split <;> exact s.carries_refl

/-- R168: a command's rule carries time, the pins, the ids and the waiting commands. -/
theorem runRule_carries (via : Via) (carrier : Option Nat) (code : CmdCode) (ops : List Byte)
    (s : State) : s.carries (runRule via carrier code ops s).state := by
  cases code
  case assignStation => exact ruleAssignStation_carries ..
  case writeTag => exact ruleWriteTag_carries ..
  case swapBanks => exact ruleSwapBanks_carries ..
  case configCycle => exact ruleConfigCycle_carries ..
  case configChannel => exact ruleConfigChannel_carries ..
  case configGroup => exact ruleConfigGroup_carries ..
  case groupStart => exact ruleGroupStart_carries ..
  case groupStop => exact ruleGroupStop_carries ..
  case groupResume => exact ruleGroupResume_carries ..
  case commit => exact ruleCommit_carries ..
  case readChannel => exact ruleReadChannel_carries ..
  case readSamples => exact ruleReadSamples_carries ..
  case writeSource => exact ruleWriteSource_carries ..
  case writePubmap => exact ruleWritePubmap_carries ..
  case readPublish => exact ruleReadPublish_carries ..
  case eventAck => exact ruleEventAck_carries ..
  case readCounts =>
    refine checked_carries ?_
    split <;> exact s.carries_refl
  case setLine => exact checked_carries (by simp [State.carries])
  case readTag => exact checked_carries s.carries_refl
  case writeUnpack => exact checked_carries s.carries_refl
  case readUnpack => exact checked_carries s.carries_refl
  case configCapture => exact checked_carries s.carries_refl
  case readCapture => exact checked_carries s.carries_refl
  case configSampler => exact checked_carries s.carries_refl
  case setLimits => exact checked_carries s.carries_refl
  case unassign => simp [runRule, ruleUnassign, State.carries]
  case softReset => simp [runRule, ruleSoftReset, State.softReset, State.carries]
  all_goals exact s.carries_refl

/-- R166: a COMMAND frame for this bridge. -/
theorem State.takeCommand_carries (via : Via) (carrier : Option Nat) (seq : Seq) (data : List Byte)
    (s : State) : s.carries (s.takeCommand via carrier seq data) := by
  have run : ∀ (v : Via) (c : CmdCode) (o : List Byte) (m : Mgmt),
      s.carries (runRule v carrier c o { s with mgmt := m }).state :=
    fun v c o m => State.carries_trans (t := { s with mgmt := m }) ⟨rfl, rfl, rfl, rfl, rfl⟩ (runRule_carries v carrier c o _)
  unfold State.takeCommand
  split
  · simp [State.carries]
  · dsimp only
    split
    · unfold State.ownCommand runOwn answer
      dsimp only
      repeat' split
      all_goals first | exact run .. | exact s.carries_refl
    · unfold State.broadcastCommand
      split
      · exact run ..
      · exact s.carries_refl

/-- R20: the local effect of a frame that passed. -/
theorem State.localEffect_carries (s : State) : s.carries s.localEffect := by
  unfold State.localEffect
  split
  · exact s.carries_refl
  · split
    · simp [State.carries]
    · exact s.carries_refl
    · unfold State.commandEffect
      dsimp only; repeat' split
      · exact s.takeCommand_carries ..
      · exact s.takeCommand_carries ..
      · exact s.carries_refl
    · exact s.carries_refl
    · exact s.carries_refl

/-- R20, R72: the effect of a frame that passed, with the ports' own entries. -/
theorem State.passEffect_carries (posts : List Posting) (s : State) : s.carries (s.passEffect posts) := by
  unfold State.passEffect
  split
  · simp [State.carries]
  · exact State.carries_trans (by simp [State.carries]) (State.localEffect_carries _)

/-- R20, R23: the check byte of a frame. -/
theorem State.takeCheck_carries (b : Byte) (s : State) : s.carries (s.takeCheck b) := by
  unfold State.takeCheck; split
  · refine State.carries_trans (t := (((s.joined b .ending).finish .complete).passed.drawn)) ?_
      (State.passEffect_carries _ _)
    simp [State.carries]
  · simp [State.carries]

/-- R20: a delivered response. -/
theorem State.deliver_carries (s : State) : s.carries s.deliver := by
  unfold State.deliver State.deliveredEffect
  dsimp only; repeat' split
  all_goals simp [State.carries]

/-- R36: a conflict. -/
theorem State.conflict_carries (s : State) : s.carries s.conflict := by
  have cut : ∀ t : State, t.carries t.cutServe := fun t => by
    unfold State.cutServe; split <;> simp [State.carries]
  have h := cut s
  unfold State.conflict
  dsimp only; repeat' split
  all_goals simp_all [State.carries]

end Sys2Proof.Machine
end

