-- ==== Sys2Proof/Laws/State.lean ====
section
/-!
SUPPORT. The field that each named update of the state writes; Laws/Frames.lean and
Laws/FramesLine.lean say what each of them leaves.
-/

namespace Sys2Proof.Machine

@[simp] theorem State.after_now (dt : Time) (s : State) : (s.after dt).now = s.now + dt := rfl

@[simp] theorem State.countUp_up (f : UpCounts → UpCounts) (s : State) :
    (s.countUp f).up = { s.up with counts := f s.up.counts } := rfl

@[simp] theorem State.countDown_down (f : DownCounts → DownCounts) (s : State) :
    (s.countDown f).down = { s.down with counts := f s.down.counts } := rfl

@[simp] theorem State.setChan_chans (d : Chan) (c : Channel) (s : State) :
    (s.setChan d c).chans = s.chans.set d c := rfl

@[simp] theorem State.setGroup_groups (g : Group) (r : GroupRec) (s : State) :
    (s.setGroup g r).groups = s.groups.set g r := rfl

@[simp] theorem State.setCap_caps (k : CapIn) (c : Capture) (s : State) :
    (s.setCap k c).caps = s.caps.set k c := rfl

@[simp] theorem State.post_events (p : Posting) (s : State) :
    (s.post p).events = s.events.post s.cycle.number p := rfl

@[simp] theorem State.restartQuiet_up (s : State) :
    s.restartQuiet.up = { s.up with quiet := quietUnder s.mgmt.quietLimit, quietSince := s.now } := rfl

@[simp] theorem State.setRx_rx (r : Rx) (s : State) : (s.setRx r).up.rx = r := rfl
@[simp] theorem State.setRx_start (r : Rx) (s : State) : (s.setRx r).up.start = none := rfl
@[simp] theorem State.seeLow_rx (s : State) : s.seeLow.up.rx = .lowSeen s.lowNow := rfl
@[simp] theorem State.foreignBegins_state (n : Time) (s : State) :
    (s.foreignBegins n).down.state = .foreignLow := rfl
@[simp] theorem State.foreignBegins_heardFrom (n : Time) (s : State) :
    (s.foreignBegins n).down.heardFrom = none := rfl
@[simp] theorem State.foreignBegins_low (n : Time) (s : State) :
    (s.foreignBegins n).down.low = some (s.down.low.getD (s.lowFor n)) := rfl

@[simp] theorem State.finish_fc (o : FrameOutcome) (s : State) :
    (s.finish o).fc = { s.fc with state := .done, outcome := some o } := rfl

@[simp] theorem State.dropEntries_relay (n : Nat) (s : State) :
    (s.dropEntries n).relay = s.relay.filter fun e => e.frame != n := rfl

@[simp] theorem State.setRecord_records (b : Buf) (r : PubRecord) (s : State) :
    (s.setRecord b r).publish.records = s.publish.records.set b r := rfl

@[simp] theorem State.setRuntime_runtime (t : Tag) (r : Runtime) (s : State) :
    (s.setRuntime t r).tags.runtime = s.tags.runtime.set t r := rfl

@[simp] theorem State.restartCount_cycle (n : Byte) (s : State) :
    (s.restartCount n).cycle = { s.cycle with base := s.now, number := n } := rfl

@[simp] theorem State.mapGroupChans_chans (g : Group) (f : Channel → Channel) (s : State) :
    (s.mapGroupChans g f).chans = mapChans (fun c => if c.config.group = g then f c else c) s.chans := rfl

@[simp] theorem State.drive_chans (own : Chan → Channel → Channel × Bool) (s : State) :
    (s.drive own).chans = sweep s.now s.groups own s.chans := rfl

@[simp] theorem State.sendUp_tx (v : Byte) (m : Marker) (s : State) :
    (s.sendUp v m).up.tx = some { value := v, marker := m, since := s.now, span := s.fc.pace } := rfl

/-! ### One record after one write -/

/-- A write of a vector, read at the same index or at another. -/
theorem Vector.read_set {α : Type} {n : Nat} (v : Vector α n) (i j : Fin n) (a : α) :
    (v.set i a)[j] = if j = i then a else v[j] := by
  by_cases h : j = i
  · subst h; simp
  · have : (i : Nat) ≠ j := fun e => h (Fin.ext e.symm)
    simp [h, this]

@[simp] theorem State.setChan_read (d e : Chan) (c : Channel) (s : State) :
    (s.setChan d c).chans[e] = if e = d then c else s.chans[e] := Vector.read_set ..

@[simp] theorem State.setGroup_read (g h : Group) (r : GroupRec) (s : State) :
    (s.setGroup g r).groups[h] = if h = g then r else s.groups[h] := Vector.read_set ..

@[simp] theorem State.setCap_read (k l : CapIn) (c : Capture) (s : State) :
    (s.setCap k c).caps[l] = if l = k then c else s.caps[l] := Vector.read_set ..

/-- A function applied to every channel, read at one. -/
@[simp] theorem mapChans_read (f : Channel → Channel) (v : Vector Channel 6) (d : Chan) :
    (mapChans f v)[d] = f v[d] := by
  fin_cases d <;> rfl

/-- A function applied to every group, read at one. -/
@[simp] theorem mapGroups_read (f : GroupRec → GroupRec) (v : Vector GroupRec 4) (g : Group) :
    (mapGroups f v)[g] = f v[g] := by
  fin_cases g <;> rfl

/-- A function applied to every capture input, read at one. -/
@[simp] theorem mapCaps_read (f : Capture → Capture) (v : Vector Capture 4) (k : CapIn) :
    (mapCaps f v)[k] = f v[k] := by
  fin_cases k <;> rfl

end Sys2Proof.Machine
end

