-- ==== Sys2Proof/Laws/Groups.lean ====
section
/-!
SUPPORT. What the group operations do, group by group and channel by channel (R105, R106, R109 to R115).
-/

namespace Sys2Proof.Machine

/-! ### One function over the channels of a group -/

theorem mapChans_get (f : Channel → Channel) (v : Vector Channel 6) (d : Chan) :
    (mapChans f v)[d] = f v[d] := by
  match d with
  | 0 | 1 | 2 | 3 | 4 | 5 => rfl

theorem mapCaps_get (f : Capture → Capture) (v : Vector Capture 4) (k : CapIn) :
    (mapCaps f v)[k] = f v[k] := by
  match k with
  | 0 | 1 | 2 | 3 => rfl

theorem mapGroups_get (f : GroupRec → GroupRec) (v : Vector GroupRec 4) (g : Group) :
    (mapGroups f v)[g] = f v[g] := by
  match g with
  | 0 | 1 | 2 | 3 => rfl

theorem State.mapGroupChans_get (g : Group) (f : Channel → Channel) (s : State) (d : Chan) :
    (s.mapGroupChans g f).chans[d] = if s.chans[d].config.group = g then f s.chans[d] else s.chans[d] :=
  mapChans_get _ _ _

theorem set_get {α : Type} {n : Nat} (v : Vector α n) (i j : Fin n) (x : α) :
    (v.set i x)[j] = if i = j then x else v[j] := by
  by_cases h : i = j
  · subst h; simp
  · rw [if_neg h]
    exact Vector.getElem_set_ne i.isLt j.isLt fun k => h (Fin.ext k)

/-! ### Taking a cause -/

@[simp] theorem Channel.enterFallback_config (c : Channel) : c.enterFallback.config = c.config := by
  unfold Channel.enterFallback; split <;> rfl

/-- Does a group enter FALLBACK when it takes a cause (R109 to R111)? -/
def GroupState.enters : GroupState → Bool
  | .run => true
  | .resuming => true
  | .stopped => false
  | .fallback => false

/-- Does a group of a state enter FALLBACK when it takes a cause? -/
def State.enters (s : State) (g : Group) : Bool := s.groups[g].state.enters

/-- The group record after it entered FALLBACK (R111). -/
def GroupRec.fallen (cause : Cause) (r : GroupRec) : GroupRec :=
  { r with state := .fallback, endPending := false, hold := 0, reason := some cause }

/-- What one group of a state posts for a cause (R110, R117). -/
def causePostings (s : State) (cause : Cause) (g : Group) : List Posting :=
  if s.groups[g].state = .stopped then []
  else [fallbackPosting g cause (decide (s.groups[g].state = .fallback))]

theorem State.takeCause_spec (g : Group) (cause : Cause) (s : State) :
    (s.takeCause g cause).1 =
      { s with groups := (s.takeCause g cause).1.groups, chans := (s.takeCause g cause).1.chans } ∧
    (∀ h : Group, (s.takeCause g cause).1.groups[h] =
      if h = g ∧ s.enters g then s.groups[g].fallen cause else s.groups[h]) ∧
    (∀ d : Chan, (s.takeCause g cause).1.chans[d] =
      if s.chans[d].config.group = g ∧ s.enters g then s.chans[d].enterFallback
      else s.chans[d]) ∧
    (s.takeCause g cause).2 = causePostings s cause g := by
  have key : (s.enterFallback g cause).groups = s.groups.set g (s.groups[g].fallen cause) := rfl
  have kc (d : Chan) : (s.enterFallback g cause).chans[d] =
      if s.chans[d].config.group = g then s.chans[d].enterFallback else s.chans[d] :=
    State.mapGroupChans_get g _ _ d
  unfold State.takeCause State.groupState causePostings State.enters
  cases h : s.groups[g].state <;>
    simp only [GroupState.enters, and_false, and_true, Bool.false_eq_true, if_false, decide_true,
      decide_false, reduceCtorEq, if_true, key, kc, implies_true]
  all_goals
    refine ⟨rfl, ?_⟩
    intro k
    rw [set_get]
    simp only [eq_comm]

/-- The fold of takeCauses, over any list of groups without repeats. -/
theorem takeCauses_fold (p : Group → Bool) (cause : Cause) (L : List Group) (hL : L.Nodup) (s : State)
    (acc : List Posting) :
    let r := L.foldl (fun acc g =>
      if p g then ((acc.1.takeCause g cause).1, acc.2 ++ (acc.1.takeCause g cause).2) else acc) (s, acc)
    r.1 = { s with groups := r.1.groups, chans := r.1.chans } ∧
    (∀ h : Group, r.1.groups[h] =
      if h ∈ L ∧ p h ∧ s.enters h then s.groups[h].fallen cause else s.groups[h]) ∧
    (∀ d : Chan, r.1.chans[d] =
      if s.chans[d].config.group ∈ L ∧ p s.chans[d].config.group ∧
          s.enters s.chans[d].config.group then s.chans[d].enterFallback
      else s.chans[d]) ∧
    r.2 = acc ++ (L.filter p).flatMap (causePostings s cause) := by
  induction L generalizing s acc with
  | nil => simp
  | cons g L ih =>
    obtain ⟨hg, hL⟩ := List.nodup_cons.mp hL
    rw [List.foldl_cons]
    by_cases hp : p g = true
    · rw [if_pos hp]
      obtain ⟨t1, t2, t3, t4⟩ := State.takeCause_spec g cause s
      obtain ⟨i1, i2, i3, i4⟩ := ih hL (s.takeCause g cause).1 (acc ++ (s.takeCause g cause).2)
      have hcfg : ∀ d : Chan, (s.takeCause g cause).1.chans[d].config = s.chans[d].config := by
        intro d; rw [t3]; split <;> simp
      refine ⟨?_, fun h => ?_, fun d => ?_, ?_⟩
      · rw [i1]
        rw [t1]
      · rw [i2]
        by_cases hh : h = g
        · subst hh
          rw [if_neg (fun k => hg k.1), t2]
          exact if_congr (by simp [hp]) rfl rfl
        · have e : (s.takeCause g cause).1.groups[h] = s.groups[h] := by
            rw [t2, if_neg (fun k => hh k.1)]
          have e2 : (s.takeCause g cause).1.enters h = s.enters h := by unfold State.enters; rw [e]
          rw [e, e2]
          exact if_congr (by simp [hh]) rfl rfl
      · rw [i3, hcfg]
        by_cases hh : s.chans[d].config.group = g
        · rw [if_neg (fun k => hg (hh ▸ k.1)), t3, hh]
          exact if_congr (by simp [hp]) rfl rfl
        · have e : (s.takeCause g cause).1.enters s.chans[d].config.group =
              s.enters s.chans[d].config.group := by
            unfold State.enters
            generalize s.chans[d].config.group = h at hh
            rw [t2, if_neg (fun k => hh k.1)]
          have e' : (s.takeCause g cause).1.chans[d] = s.chans[d] := by rw [t3, if_neg (fun k => hh k.1)]
          rw [e, e']
          exact if_congr ⟨fun k => ⟨List.mem_cons_of_mem _ k.1, k.2⟩,
            fun k => ⟨(List.mem_cons.mp k.1).resolve_left hh, k.2⟩⟩ rfl rfl
      · rw [i4, t4, List.filter_cons_of_pos hp, List.flatMap_cons, List.append_assoc]
        congr 2
        have : ∀ h ∈ L.filter p, causePostings (s.takeCause g cause).1 cause h = causePostings s cause h := by
          intro h hm
          have hne : h ≠ g := fun k => hg (k ▸ (List.mem_filter.mp hm).1)
          have e : (s.takeCause g cause).1.groups[h] = s.groups[h] := by
            rw [t2, if_neg (fun k => hne k.1)]
          unfold causePostings
          rw [e]
        rw [List.flatMap_congr this]
    · rw [if_neg hp]
      obtain ⟨i1, i2, i3, i4⟩ := ih hL s acc
      refine ⟨i1, fun h => ?_, fun d => ?_, ?_⟩
      · rw [i2]
        refine if_congr ⟨fun k => ⟨List.mem_cons_of_mem _ k.1, k.2⟩, fun k => ⟨?_, k.2⟩⟩ rfl rfl
        rcases List.mem_cons.mp k.1 with e | e
        · exact absurd (e ▸ k.2.1) hp
        · exact e
      · rw [i3]
        refine if_congr ⟨fun k => ⟨List.mem_cons_of_mem _ k.1, k.2⟩, fun k => ⟨?_, k.2⟩⟩ rfl rfl
        rcases List.mem_cons.mp k.1 with e | e
        · exact absurd (e ▸ k.2.1) hp
        · exact e
      · rw [i4, List.filter_cons_of_neg hp]

/-- R109 to R111 and R117: everything that taking causes does. -/
theorem State.takeCauses_spec (p : Group → Bool) (cause : Cause) (s : State) :
    let r := s.takeCauses p cause
    r.1 = { s with groups := r.1.groups, chans := r.1.chans } ∧
    (∀ h : Group, r.1.groups[h] =
      if p h ∧ s.enters h then s.groups[h].fallen cause else s.groups[h]) ∧
    (∀ d : Chan, r.1.chans[d] =
      if p s.chans[d].config.group ∧ s.enters s.chans[d].config.group then
        s.chans[d].enterFallback else s.chans[d]) ∧
    r.2 = (allGroups.filter p).flatMap (causePostings s cause) := by
  obtain ⟨i1, i2, i3, i4⟩ := takeCauses_fold p cause allGroups (by decide) s []
  have hall : ∀ g : Group, g ∈ allGroups := by decide
  refine ⟨i1, fun h => ?_, fun d => ?_, ?_⟩
  · exact (i2 h).trans (if_congr (by simp [hall]) rfl rfl)
  · exact (i3 d).trans (if_congr (by simp [hall]) rfl rfl)
  · exact i4

/-! ### Posting several events -/

theorem State.postAll_events (ps : List Posting) (s : State) :
    s.postAll ps = { s with events := ps.foldl (fun b q => b.post s.cycle.number q) s.events } := by
  unfold State.postAll
  induction ps generalizing s with
  | nil => rfl
  | cons p ps ih => rw [List.foldl_cons, ih]; rfl

/-- Each list keeps its own order in the merge (R39, R117). -/
theorem interleave_filter (q : Posting → Bool) (pick : Nat → Bool) (n : Nat) (xs ys : List Posting)
    (hx : ∀ x ∈ xs, q x = true) (hy : ∀ y ∈ ys, q y = false) :
    (interleave pick n xs ys).filter q = xs ∧ (interleave pick n xs ys).filter (fun p => !q p) = ys := by
  have h0 : ∀ l : List Posting, (∀ x ∈ l, q x = true) →
      l.filter q = l ∧ l.filter (fun p => !q p) = [] := fun l h =>
    ⟨List.filter_eq_self.mpr h, List.filter_eq_nil_iff.mpr fun a ha => by simp [h a ha]⟩
  have h1 : ∀ l : List Posting, (∀ x ∈ l, q x = false) →
      l.filter q = [] ∧ l.filter (fun p => !q p) = l := fun l h =>
    ⟨List.filter_eq_nil_iff.mpr fun a ha => by simp [h a ha],
     List.filter_eq_self.mpr fun a ha => by simp [h a ha]⟩
  induction n generalizing xs ys with
  | zero => simp [interleave, List.filter_append, h0 xs hx, h1 ys hy]
  | succ n ih =>
    cases xs with
    | nil => exact h1 ys hy
    | cons x xs =>
      cases ys with
      | nil => exact h0 _ hx
      | cons y ys =>
        obtain ⟨qx, hx'⟩ := List.forall_mem_cons.mp hx
        obtain ⟨qy, hy'⟩ := List.forall_mem_cons.mp hy
        unfold interleave
        split
        · obtain ⟨a, b⟩ := ih xs (y :: ys) hx' hy
          simp [qx, a, b]
        · obtain ⟨a, b⟩ := ih (x :: xs) ys hx hy'
          simp [qy, a, b]

end Sys2Proof.Machine
end

