-- ==== Sys2Proof/Laws/Drive.lean ====
section
/-!
SUPPORT. What one pass over the drive channels does to each of them (R97 to R102): its own effect, and then
the start that a leader end gives it.
-/

namespace Sys2Proof.Machine

/-- What a channel is after its own effect and the leader ends of a list of channels. -/
def Channel.led (now : Time) (groups : Vector GroupRec 4) (ended : List Chan) (c : Channel) : Channel :=
  if c.follows ended && c.takes groups then (c.startShot now).1 else c

section
variable (now : Time) (groups : Vector GroupRec 4) (own : Chan → Channel → Channel × Bool)

/-- The channels whose leader ends have come when a pass over a list is done. -/
def sweepEnds (v : Vector Channel 6) (L : List Chan) : List Chan := (L.foldl (sweepStep now groups own) (v, [])).2

theorem sweepStep_get (a : Vector Channel 6 × List Chan) (d e : Chan) :
    (sweepStep now groups own a d).1[e] =
      if d = e then (own d a.1[d]).1.led now groups a.2 else a.1[e] := by
  unfold sweepStep Channel.led
  dsimp only
  split <;> rw [set_get]

theorem sweepStep_mem (a : Vector Channel 6 × List Chan) (d e : Chan) :
    e ∈ (sweepStep now groups own a d).2 ↔ e ∈ a.2 ∨ (e = d ∧ ((own d a.1[d]).2 = true ∨
      ((own d a.1[d]).1.follows a.2 = true ∧ (own d a.1[d]).1.takes groups = true ∧
        ((own d a.1[d]).1.startShot now).2 = true))) := by
  have hs : (sweepStep now groups own a d).2 =
      if ((own d a.1[d]).2 || (if (own d a.1[d]).1.follows a.2 && (own d a.1[d]).1.takes groups then
        (own d a.1[d]).1.startShot now else ((own d a.1[d]).1, false)).2) = true then d :: a.2 else a.2 := rfl
  rw [hs]
  generalize own d a.1[d] = o
  cases o.2 <;> cases o.1.follows a.2 <;> cases o.1.takes groups <;> cases h : (o.1.startShot now).2 <;>
    simp [h, or_comm]

/-- A pass over a list leaves every other channel. -/
theorem sweep_other (L : List Chan) (a : Vector Channel 6 × List Chan) (e : Chan) (h : e ∉ L) :
    (L.foldl (sweepStep now groups own) a).1[e] = a.1[e] := by
  induction L generalizing a with
  | nil => rfl
  | cons d L ih =>
    obtain ⟨h1, h2⟩ := not_or.mp (mt List.mem_cons.mpr h)
    rw [List.foldl_cons, ih _ h2, sweepStep_get, if_neg (Ne.symm h1)]

theorem allChans_split : ∀ d : Chan, allChans = allChans.take d.val ++ d :: allChans.drop (d.val + 1) ∧
    d ∉ allChans.take d.val ∧ d ∉ allChans.drop (d.val + 1) := by decide

/-- A channel after a pass: its own effect, then the leader ends that came before it. -/
theorem sweep_get (v : Vector Channel 6) (d : Chan) :
    (sweep now groups own v)[d] =
      (own d v[d]).1.led now groups (sweepEnds now groups own v (allChans.take d.val)) := by
  obtain ⟨h, h1, h2⟩ := allChans_split d
  have e : sweep now groups own v =
      ((allChans.take d.val ++ d :: allChans.drop (d.val + 1)).foldl (sweepStep now groups own) (v, [])).1 := by
    rw [← h]; rfl
  rw [e, List.foldl_append, List.foldl_cons, sweep_other _ _ _ _ _ _ h2, sweepStep_get, if_pos rfl]
  have : ((allChans.take d.val).foldl (sweepStep now groups own) (v, [])).1[d] = v[d] :=
    sweep_other _ _ _ _ _ _ h1
  rw [this]
  rfl

/-- What holds of every leader end of a pass: it holds of the ends that the channels' own effects make, and a
follower of such ends has it too. -/
theorem sweepEnds_ind (P : Chan → Prop) (v : Vector Channel 6) (L : List Chan) (hL : L.Nodup)
    (h1 : ∀ e ∈ L, (own e v[e]).2 = true → P e)
    (h2 : ∀ e ∈ L, ∀ E, (∀ x ∈ E, P x) → (own e v[e]).1.follows E = true → P e) :
    ∀ e ∈ sweepEnds now groups own v L, P e := by
  suffices H : ∀ (K : List Chan) (a : Vector Channel 6 × List Chan), (∀ e ∈ K, e ∈ L) → K.Nodup →
      (∀ e ∈ K, a.1[e] = v[e]) → (∀ e ∈ a.2, P e) →
      ∀ e ∈ (K.foldl (sweepStep now groups own) a).2, P e from
    H L (v, []) (fun _ h => h) hL (fun _ _ => rfl) (by simp)
  intro K
  induction K with
  | nil => exact fun a _ _ _ h => h
  | cons d K ih =>
    intro a hK hn hv ha
    obtain ⟨hd, hn⟩ := List.nodup_cons.mp hn
    rw [List.foldl_cons]
    refine ih _ (fun e h => hK e (List.mem_cons_of_mem _ h)) hn ?_ ?_
    · intro e he
      rw [sweepStep_get, if_neg (by rintro rfl; exact hd he)]
      exact hv e (List.mem_cons_of_mem _ he)
    · have hvd : a.1[d] = v[d] := hv d List.mem_cons_self
      intro e he
      rcases (sweepStep_mem now groups own a d e).mp he with k | ⟨rfl, k | k⟩
      · exact ha e k
      · exact h1 e (hK e List.mem_cons_self) (by rw [← hvd]; exact k)
      · exact h2 e (hK e List.mem_cons_self) a.2 ha (by rw [← hvd]; exact k.1)

/-- Ends stay among the ends. -/
theorem sweepEnds_mono (L : List Chan) (a : Vector Channel 6 × List Chan) :
    ∀ e ∈ a.2, e ∈ (L.foldl (sweepStep now groups own) a).2 := by
  induction L generalizing a with
  | nil => exact fun _ h => h
  | cons d L ih =>
    intro e he
    rw [List.foldl_cons]
    exact ih _ e ((sweepStep_mem now groups own a d e).mpr (Or.inl he))

/-- An end that a channel's own effect makes is among the ends that a later channel sees. -/
theorem sweepEnds_own (v : Vector Channel 6) (d f : Chan) (h : d < f) (he : (own d v[d]).2 = true) :
    d ∈ sweepEnds now groups own v (allChans.take f.val) := by
  have hs : ∀ d f : Chan, d < f → allChans.take f.val =
      allChans.take d.val ++ d :: (allChans.take f.val).drop (d.val + 1) := by decide
  have h2 := hs d f h
  unfold sweepEnds
  rw [h2, List.foldl_append, List.foldl_cons]
  refine sweepEnds_mono _ _ _ _ _ _ ((sweepStep_mem now groups own _ d d).mpr (Or.inr ⟨rfl, Or.inl ?_⟩))
  have : ((allChans.take d.val).foldl (sweepStep now groups own) (v, [])).1[d] = v[d] :=
    sweep_other _ _ _ _ _ _ (allChans_split d).2.1
  rw [this]
  exact he

end

/-! ### A pass over the state's channels -/

theorem State.drive_eq (own : Chan → Channel → Channel × Bool) (s : State) :
    s.drive own = { s with chans := (s.drive own).chans } := by
  unfold State.drive
  generalize sweep s.now s.groups own s.chans = v
  rfl

theorem State.drive_get (own : Chan → Channel → Channel × Bool) (s : State) (d : Chan) :
    (s.drive own).chans[d] = (own d s.chans[d]).1.led s.now s.groups
      (sweepEnds s.now s.groups own s.chans (allChans.take d.val)) :=
  sweep_get _ _ _ _ _

/-! ### What a leader end leaves -/

theorem Channel.led_eq (now : Time) (groups : Vector GroupRec 4) (E : List Chan) (c : Channel) :
    ∃ sh, c.led now groups E = { c with shot := sh } ∧ (c.config.mode ≠ .follow → sh = c.shot) := by
  unfold Channel.led
  split
  · refine ⟨_, rfl, fun h => ?_⟩
    have := (Bool.and_eq_true_iff.mp ‹_›).1
    simp [Channel.follows, h] at this
  · exact ⟨_, rfl, fun _ => rfl⟩

theorem Channel.led_of_not_follow {now : Time} {groups : Vector GroupRec 4} {E : List Chan} {c : Channel}
    (h : c.config.mode ≠ .follow) : c.led now groups E = c := by
  obtain ⟨sh, e, k⟩ := Channel.led_eq now groups E c
  rw [e, k h]

theorem Channel.led_nil (now : Time) (groups : Vector GroupRec 4) (c : Channel) : c.led now groups [] = c := by
  unfold Channel.led Channel.follows
  cases c.config.leader <;> simp

end Sys2Proof.Machine
end

