-- ==== Sys2Proof/Laws/Cycle.lean ====
section
/-!
SUPPORT. What a commit moves in one channel, and all that a cycle start can do: the group records, the
active records and overrides after it, whatever order the open choices of log 9 take.
-/

namespace Sys2Proof.Machine

theorem Stage.isEmpty_iff (s : Stage) : s.isEmpty = decide (s.setpoint = none ∧ s.delay = none) := by
  unfold Stage.isEmpty; cases s.setpoint <;> cases s.delay <;> simp

theorem Armed.isEmpty_iff (a : Armed) : a.isEmpty = decide (a.setpoint = none ∧ a.delay = none) := by
  unfold Armed.isEmpty; cases a.setpoint <;> cases a.delay <;> simp

theorem Channel.nothing_staged (c : Channel) (h : c.stage.isEmpty = true) :
    ({ setpoint := c.stage.setpoint.or c.armed.setpoint,
       delay := c.stage.delay.or c.armed.delay } : Armed) = c.armed := by
  rw [Stage.isEmpty_iff] at h
  have h := of_decide_eq_true h
  rw [h.1, h.2]
  simp

/-- R67 and R114 for one channel. -/
theorem Channel.commit_eq (recovering : Bool) (c : Channel) :
    (if recovering then c.recover.commit else c.commit) = { c with
      stage := if c.stage.isEmpty then c.stage else c.stage.emptied,
      armed := if c.stage.isEmpty && c.armed.isEmpty && recovering then
          { setpoint := some 0, delay := some 0 }
        else { setpoint := c.stage.setpoint.or c.armed.setpoint, delay := c.stage.delay.or c.armed.delay } } := by
  cases recovering
  · simp only [Bool.and_false, Bool.false_eq_true, if_false]
    unfold Channel.commit
    cases h : c.stage.isEmpty
    · simp
    · simp [c.nothing_staged h]
  · simp only [Bool.and_true, if_true]
    unfold Channel.recover
    cases h : c.stage.isEmpty <;> cases h2 : c.armed.isEmpty <;> simp [Channel.commit, h]
    rw [c.nothing_staged h]

/-- A trigger touches the shot and the ignored-trigger count only. -/
theorem Channel.oneshotOn_eq (src : ChanTrigger) (gs : Vector GroupRec 4) (now : Time) (c : Channel) :
    ∃ sh ig, (c.oneshotOn src gs now).1 = { c with shot := sh, ignored := ig } := by
  unfold Channel.oneshotOn
  split
  · unfold Channel.trigger
    split
    · exact ⟨_, _, rfl⟩
    · exact ⟨_, _, rfl⟩
  · exact ⟨_, _, rfl⟩

/-- A COMMIT trigger touches shots and ignored-trigger counts only. -/
theorem State.triggerCommit_get (g : Group) (s : State) (d : Chan) : ∃ sh ig, (s.triggerCommit g).chans[d] = { s.chans[d] with shot := sh, ignored := ig } := by
  unfold State.triggerCommit
  rw [State.drive_get]
  obtain ⟨sh, e, -⟩ := Channel.led_eq s.now s.groups (sweepEnds s.now s.groups (fun _ c => if c.config.group = g then c.oneshotOn .commit s.groups s.now else (c, false)) s.chans (allChans.take d.val)) (if s.chans[d].config.group = g then s.chans[d].oneshotOn .commit s.groups s.now else (s.chans[d], false)).1
  rw [e]
  split
  · obtain ⟨sh', ig', e'⟩ := Channel.oneshotOn_eq .commit s.groups s.now s.chans[d]
    rw [e']; exact ⟨_, _, rfl⟩
  · exact ⟨_, _, rfl⟩

/-- The channel as it is but for its shot and its ignored-trigger count. -/
def Channel.agrees (a b : Channel) : Prop := ∃ sh ig, b = { a with shot := sh, ignored := ig }

theorem Channel.agrees.refl (a : Channel) : a.agrees a := ⟨_, _, rfl⟩

theorem Channel.agrees.trans {a b c : Channel} (h : a.agrees b) (k : b.agrees c) : a.agrees c := by
  obtain ⟨_, _, rfl⟩ := h
  obtain ⟨_, _, rfl⟩ := k
  exact ⟨_, _, rfl⟩

theorem Channel.agrees.config {a b : Channel} (h : a.agrees b) : b.config = a.config := by
  obtain ⟨_, _, rfl⟩ := h; rfl

theorem Channel.agrees.override {a b : Channel} (h : a.agrees b) : b.override = a.override := by
  obtain ⟨_, _, rfl⟩ := h; rfl

/-- R70 for one channel of a group: what an AUTO commit request moves. -/
def Channel.autoed (r : GroupRec) (c : Channel) : Channel := if r.accepts .auto then c.commit else c

theorem Channel.autoed_agrees (r : GroupRec) {a b : Channel} (h : a.agrees b) :
    (a.autoed r).agrees (b.autoed r) := by
  obtain ⟨sh, ig, rfl⟩ := h
  unfold Channel.autoed Channel.commit
  split
  · dsimp only; split <;> exact ⟨_, _, rfl⟩
  · exact ⟨_, _, rfl⟩

theorem Channel.commit_config (c : Channel) : c.commit.config = c.config := by
  unfold Channel.commit; split <;> rfl

theorem Channel.autoed_config (r : GroupRec) (c : Channel) : (c.autoed r).config = c.config := by
  unfold Channel.autoed; split
  · exact c.commit_config
  · rfl

theorem set_same {α : Type} {n : Nat} (v : Vector α n) (i : Fin n) : v.set i v[i] = v := by
  apply Vector.ext
  intro j hj
  refine (set_get v i ⟨j, hj⟩ v[i]).trans ?_
  split
  · rename_i h; subst h; rfl
  · rfl

/-- R70: an AUTO commit request is a sweep of COMMIT triggers over channels of which the group's are moved. -/
theorem State.requestAuto_eq (g : Group) (s : State) :
    s.requestCommit .auto g =
      if s.groups[g].accepts .auto then (s.mapGroupChans g fun c => c.commit).triggerCommit g else s := by
  unfold State.requestCommit
  split
  · have hm : (s.mapGroupChans g fun c => c.commit).setGroup g (s.groups[g].committed .auto) =
        s.mapGroupChans g fun c => c.commit := by
      show ({ s.mapGroupChans g (fun c => c.commit) with groups := s.groups.set g s.groups[g] } : State) = _
      rw [set_same]; rfl
    have h : (decide (s.groupState g = .resuming) && decide (Source.auto ≠ .auto)) = false := by simp
    unfold State.acceptCommit
    simp only [h, Bool.false_eq_true, if_false, hm]
  · rfl

/-- R70: an AUTO commit request touches channels only: the group's slots and records move, and shots and
ignored-trigger counts may change. -/
theorem State.requestAuto_spec (g : Group) (s : State) :
    s.requestCommit .auto g = { s with chans := (s.requestCommit .auto g).chans } ∧
    ∀ d : Chan, (if s.chans[d].config.group = g then s.chans[d].autoed s.groups[g] else s.chans[d]).agrees
      (s.requestCommit .auto g).chans[d] := by
  rw [State.requestAuto_eq]
  unfold Channel.autoed
  split
  · refine ⟨State.drive_eq _ _, fun d => ?_⟩
    obtain ⟨sh, ig, h⟩ := State.triggerCommit_get g (s.mapGroupChans g fun c => c.commit) d
    rw [h, State.mapGroupChans_get]
    exact ⟨_, _, rfl⟩
  · exact ⟨rfl, fun d => by rw [ite_self]; exact Channel.agrees.refl _⟩

/-- R134: the sampler meets an event of a source. -/
def Sampler.atEvent (src : SamplerSource) (now : Time) (sm : Sampler) : Sampler :=
  if sm.source = some src then sm.trigger now else sm

theorem State.samplerEvent_eq (src : SamplerSource) (s : State) :
    s.samplerEvent src = { s with sampler := s.sampler.atEvent src s.now } := by
  unfold State.samplerEvent Sampler.atEvent; split <;> rfl

/-- R108: does the hold check of a RUN group report the cause? -/
def GroupRec.holdExpires (r : GroupRec) : Bool := decide (r.state = .run ∧ r.holdLimit ≠ 0 ∧ r.hold = r.holdLimit)

/-- R115, then R108: a group record after the supervisor's work at a cycle start. -/
def GroupRec.supervised (r : GroupRec) : GroupRec :=
  if r.state ≠ .run then r
  else
    let r' := if r.endPending then { r with endPending := false, reason := none } else r
    if GroupRec.holdExpires r then r'.fallen .hold else { r' with hold := satInc r.hold }

/-- R115, then R108: a channel of the group after that work. -/
def Channel.supervised (r : GroupRec) (c : Channel) : Channel :=
  if r.state ≠ .run then c
  else
    let c' := if r.endPending then { c with override := .none } else c
    if GroupRec.holdExpires r then c'.enterFallback else c'

/-- R115 and R108 for one group. -/
theorem Supervised.check_spec (g : Group) (a : Supervised) :
    (a.check g).state = { a.state with groups := a.state.groups.set g (GroupRec.supervised a.state.groups[g]), chans := (a.check g).state.chans } ∧
    ∀ d : Chan, (a.check g).state.chans[d] = if a.state.chans[d].config.group = g then Channel.supervised a.state.groups[g] a.state.chans[d] else a.state.chans[d] := by
  unfold Supervised.check
  dsimp only
  generalize a.state = s
  have he : (s.endFallback g).1 = { s with groups := s.groups.set g (if s.groups[g].state = .run ∧ s.groups[g].endPending then { s.groups[g] with endPending := false, reason := none } else s.groups[g]), chans := (s.endFallback g).1.chans } ∧
      ∀ d : Chan, (s.endFallback g).1.chans[d] = if s.chans[d].config.group = g then (if s.groups[g].state = .run ∧ s.groups[g].endPending then { s.chans[d] with override := .none } else s.chans[d]) else s.chans[d] := by
    unfold State.endFallback
    dsimp only
    by_cases h : s.groups[g].state = .run ∧ s.groups[g].endPending = true
    · rw [if_pos h]
      simp only [h, and_self, if_true]
      refine ⟨rfl, fun d => State.mapGroupChans_get _ _ _ _⟩
    · simp only [if_neg h]
      refine ⟨?_, fun d => by simp⟩
      have : s.groups.set g s.groups[g] = s.groups := by
        apply Vector.ext; intro i hi; 
        have := set_get s.groups g ⟨i, hi⟩ s.groups[g]
        refine this.trans ?_
        split
        · rename_i h; subst h; rfl
        · rfl
      rw [this]
  obtain ⟨e1, e2⟩ := he
  generalize (s.endFallback g).1 = u at e1 e2
  have ug : u.groups[g] = (if s.groups[g].state = .run ∧ s.groups[g].endPending then { s.groups[g] with endPending := false, reason := none } else s.groups[g]) := by
    rw [e1]; show (s.groups.set _ _)[g] = _; rw [set_get, if_pos rfl]
  have setset (r r' : GroupRec) : (s.groups.set g r).set g r' = s.groups.set g r' := by
    apply Vector.ext; intro i hi
    have h1 := set_get (s.groups.set g r) g ⟨i, hi⟩ r'
    have h2 := set_get s.groups g ⟨i, hi⟩ r'
    have h3 := set_get s.groups g ⟨i, hi⟩ r
    refine h1.trans (Eq.trans ?_ h2.symm)
    refine if_ctx_congr Iff.rfl (fun _ => rfl) (fun h => h3.trans (if_neg h))
  have hst : u.groups[g].state = s.groups[g].state := by rw [ug]; split <;> rfl
  have hhl : u.groups[g].holdLimit = s.groups[g].holdLimit := by rw [ug]; split <;> rfl
  have hho : u.groups[g].hold = s.groups[g].hold := by rw [ug]; split <;> rfl
  unfold State.holdCheck
  dsimp only
  by_cases h1 : s.groups[g].state ≠ .run
  · rw [if_pos (show u.groups[g].state ≠ .run by rw [hst]; exact h1)]
    have hn : ¬ (s.groups[g].state = .run ∧ s.groups[g].endPending = true) := fun k => h1 k.1
    have hc : GroupRec.supervised s.groups[g] = s.groups[g] := by unfold GroupRec.supervised; rw [if_pos h1]
    rw [hc]
    simp only [if_neg hn] at e1 e2
    refine ⟨e1, fun d => ?_⟩
    rw [e2]; unfold Channel.supervised; rw [if_pos h1]
  · rw [if_neg (show ¬ u.groups[g].state ≠ .run by rw [hst]; exact h1)]
    have h1' : s.groups[g].state = .run := not_not.mp h1
    by_cases h2 : s.groups[g].holdLimit ≠ 0 ∧ s.groups[g].hold = s.groups[g].holdLimit
    · rw [if_pos (show u.groups[g].holdLimit ≠ 0 ∧ u.groups[g].hold = u.groups[g].holdLimit by rw [hhl, hho]; exact h2)]
      have hf : GroupRec.holdExpires s.groups[g] = true := decide_eq_true ⟨h1', h2⟩
      have hr : GroupRec.supervised s.groups[g] = u.groups[g].fallen .hold := by
        unfold GroupRec.supervised; rw [if_neg h1, ug]; simp only [hf, h1', true_and, if_true]
      refine ⟨?_, fun d => ?_⟩
      · rw [hr]
        have : (u.enterFallback g .hold) = { u with groups := u.groups.set g (u.groups[g].fallen .hold), chans := (u.enterFallback g .hold).chans } := rfl
        rw [this]
        generalize (u.enterFallback g .hold).chans = X
        generalize u.groups[g].fallen .hold = R
        rw [e1]
        simp only [setset]
      · have : (u.enterFallback g .hold).chans[d] = if u.chans[d].config.group = g then u.chans[d].enterFallback else u.chans[d] := State.mapGroupChans_get _ _ _ _
        rw [this, e2]
        by_cases hg : s.chans[d].config.group = g
        · simp only [if_pos hg]
          unfold Channel.supervised
          rw [if_neg h1]
          simp only [hf, h1', true_and, if_true]
          rw [if_pos]
          split <;> exact hg
        · simp only [if_neg hg]
    · rw [if_neg (show ¬ (u.groups[g].holdLimit ≠ 0 ∧ u.groups[g].hold = u.groups[g].holdLimit) by rw [hhl, hho]; exact h2)]
      have hf : GroupRec.holdExpires s.groups[g] = false := decide_eq_false (fun k => h2 k.2)
      have hr : GroupRec.supervised s.groups[g] = { u.groups[g] with hold := satInc u.groups[g].hold } := by
        unfold GroupRec.supervised; rw [hho, if_neg h1, ug]; simp only [hf, h1', true_and, Bool.false_eq_true, if_false]
      refine ⟨?_, fun d => ?_⟩
      · rw [hr]
        generalize ({ u.groups[g] with hold := satInc u.groups[g].hold } : GroupRec) = R
        show ({ u with groups := u.groups.set g R } : State) = { s with chans := u.chans, groups := _ }
        rw [e1]
        simp only [setset]
      · show u.chans[d] = _
        rw [e2]; unfold Channel.supervised; rw [if_neg h1]
        simp only [hf, h1', true_and, Bool.false_eq_true, if_false]

/-- R115: what a group's end of fallback posts at a cycle start. -/
def GroupRec.endPostings (g : Group) (r : GroupRec) : List Posting :=
  if r.state = .run ∧ r.endPending then [groupRunPosting g .recovered] else []

/-- R108: what a group's hold check posts at a cycle start. -/
def GroupRec.holdPostings (g : Group) (r : GroupRec) : List Posting :=
  if r.holdExpires then [fallbackPosting g .hold false] else []

/-- R115 and R108: what the work on one group posts. -/
theorem Supervised.check_posts (g : Group) (a : Supervised) :
    (a.check g).runs = a.runs ++ GroupRec.endPostings g a.state.groups[g] ∧
    (a.check g).falls = a.falls ++ GroupRec.holdPostings g a.state.groups[g] := by
  have h1 : (a.state.endFallback g).2 = GroupRec.endPostings g a.state.groups[g] := by
    unfold State.endFallback GroupRec.endPostings; dsimp only; split <;> rfl
  have h2 : ((a.state.endFallback g).1.holdCheck g).2 = GroupRec.holdPostings g a.state.groups[g] := by
    have e : ∀ (u : State) (r : GroupRec), u.groups[g].state = r.state → u.groups[g].holdLimit = r.holdLimit →
        u.groups[g].hold = r.hold → (u.holdCheck g).2 = GroupRec.holdPostings g r := by
      intro u r a b c
      unfold State.holdCheck GroupRec.holdPostings GroupRec.holdExpires
      dsimp only
      rw [a, b, c]
      by_cases k : r.state = .run
      · by_cases l : r.holdLimit ≠ 0 ∧ r.hold = r.holdLimit
        · simp only [k, l, ne_eq, not_true_eq_false, if_false, and_self, not_false_eq_true, if_true, decide_true]
        · simp only [k, l, ne_eq, not_true_eq_false, if_false, and_false, decide_false, Bool.false_eq_true]
      · simp [k]
    unfold State.endFallback
    dsimp only
    split
    · have hg (R : GroupRec) : (a.state.groups.set g R)[g] = R := by rw [set_get, if_pos rfl]
      refine e _ a.state.groups[g] ?_ ?_ ?_
      · exact (congrArg GroupRec.state (hg _)).trans rfl
      · exact (congrArg GroupRec.holdLimit (hg _)).trans rfl
      · exact (congrArg GroupRec.hold (hg _)).trans rfl
    · exact e _ _ rfl rfl rfl
  exact ⟨by rw [← h1]; rfl, by rw [← h2]; rfl⟩

theorem Channel.supervised_agrees (r : GroupRec) {a b : Channel} (h : a.agrees b) :
    (Channel.supervised r a).agrees (Channel.supervised r b) := by
  obtain ⟨sh, ig, rfl⟩ := h
  unfold Channel.supervised
  by_cases k : r.state ≠ .run
  · rw [if_pos k, if_pos k]; exact ⟨_, _, rfl⟩
  · rw [if_neg k, if_neg k]
    cases r.endPending <;> cases GroupRec.holdExpires r <;>
      simp only [Bool.false_eq_true, if_false, if_true, Channel.enterFallback] <;>
      first | exact ⟨_, _, rfl⟩ | (cases a.config.action <;> exact ⟨_, _, rfl⟩)

theorem Channel.supervised_config (r : GroupRec) (c : Channel) : (Channel.supervised r c).config = c.config := by
  unfold Channel.supervised; dsimp only; repeat' split
  all_goals simp

/-- R70, R108 and R115 for one channel of a group. -/
def Channel.worked (r : GroupRec) (c : Channel) : Channel := Channel.supervised r (c.autoed r)

theorem Channel.worked_agrees (r : GroupRec) {a b : Channel} (h : a.agrees b) : (a.worked r).agrees (b.worked r) :=
  Channel.supervised_agrees r (Channel.autoed_agrees r h)

theorem Channel.worked_config (r : GroupRec) (c : Channel) : (c.worked r).config = c.config := by
  rw [Channel.worked, Channel.supervised_config, Channel.autoed_config]

/-- R108: the supervisor's work and the AUTO commit leave the same records in either order. -/
theorem Channel.autoed_supervised (r : GroupRec) (c : Channel) :
    (Channel.supervised r c).autoed (GroupRec.supervised r) = c.worked r := by
  unfold Channel.worked Channel.supervised GroupRec.supervised
  by_cases k : r.state ≠ .run
  · simp only [if_pos k]
  · simp only [if_neg k]
    have k' : r.state = .run := not_not.mp k
    cases he : r.endPending <;> cases hf : GroupRec.holdExpires r <;>
      simp only [Bool.false_eq_true, if_false, if_true] <;>
      simp only [Channel.autoed, GroupRec.accepts, GroupRec.fallen, GroupState.commits, GroupState.discards,
        Bool.not_true, Bool.and_false, Bool.false_eq_true, if_false, k', Bool.not_false, Bool.and_true]
    all_goals
      split
      · cases hs : c.stage.isEmpty <;>
          simp only [Channel.commit, hs, Bool.false_eq_true, if_false, if_true] <;>
          (try unfold Channel.enterFallback Channel.emptied Stage.emptied) <;>
          (cases c.config.action <;> simp only)
      · rfl

theorem Supervised.group_spec (n : Nat) (a : Supervised) (g : Group) :
    (Supervised.group n a g).state = { a.state with groups := a.state.groups.set g (GroupRec.supervised a.state.groups[g]), chans := (Supervised.group n a g).state.chans } ∧
    (∀ d : Chan, (if a.state.chans[d].config.group = g then a.state.chans[d].worked a.state.groups[g] else a.state.chans[d]).agrees (Supervised.group n a g).state.chans[d]) ∧
    (Supervised.group n a g).runs = a.runs ++ GroupRec.endPostings g a.state.groups[g] ∧
    (Supervised.group n a g).falls = a.falls ++ GroupRec.holdPostings g a.state.groups[g] := by
  have core {s u : State} {Y : Vector Channel 6} (h : u = { s with chans := Y }) (X : Vector Channel 6)
      (G : Vector GroupRec 4) :
      ({ u with groups := G, chans := X } : State) = { s with groups := G, chans := X } := by rw [h]
  by_cases hb : Config.autoFirst n g = true
  · have e : Supervised.group n a g = (a.auto g).check g := by unfold Supervised.group; rw [if_pos hb]
    rw [e]
    obtain ⟨a1, a2⟩ := State.requestAuto_spec g a.state
    obtain ⟨c1, c2⟩ := Supervised.check_spec g (a.auto g)
    obtain ⟨p1, p2⟩ := Supervised.check_posts g (a.auto g)
    have hu : (a.auto g).state = a.state.requestCommit .auto g := rfl
    rw [hu] at c1 c2 p1 p2
    have hg : (a.state.requestCommit .auto g).groups = a.state.groups := by rw [a1]
    refine ⟨?_, fun d => ?_, by rw [p1]; simp only [hg]; rfl, by rw [p2]; simp only [hg]; rfl⟩
    · generalize a.state.requestCommit .auto g = u at c1 a1 hg
      generalize ((a.auto g).check g).state.chans = X at c1
      generalize u.chans = Y at a1
      rw [c1]; simp only [hg]
      exact core a1 _ _
    · have h := a2 d
      rw [c2]; simp only [hg]
      generalize (a.state.requestCommit .auto g).chans[d] = y at h
      by_cases k : a.state.chans[d].config.group = g
      · rw [if_pos k] at h
        have : y.config.group = g := by rw [h.config, Channel.autoed_config]; exact k
        rw [if_pos k, if_pos this]
        exact Channel.supervised_agrees _ h
      · rw [if_neg k] at h
        have : ¬ y.config.group = g := by rw [h.config]; exact k
        rw [if_neg k, if_neg this]
        exact h
  · have e : Supervised.group n a g = (a.check g).auto g := by unfold Supervised.group; rw [if_neg hb]
    rw [e]
    obtain ⟨c1, c2⟩ := Supervised.check_spec g a
    obtain ⟨p1, p2⟩ := Supervised.check_posts g a
    obtain ⟨a1, a2⟩ := State.requestAuto_spec g (a.check g).state
    have hu : ((a.check g).auto g).state = (a.check g).state.requestCommit .auto g := rfl
    have hg : (a.check g).state.groups[g] = GroupRec.supervised a.state.groups[g] := by
      have : (a.check g).state.groups = a.state.groups.set g (GroupRec.supervised a.state.groups[g]) := by rw [c1]
      simp only [this]; rw [set_get, if_pos rfl]
    refine ⟨?_, fun d => ?_, p1, p2⟩
    · rw [hu]
      generalize ((a.check g).state.requestCommit .auto g).chans = X at a1
      rw [a1]
      generalize (a.check g).state.chans = Y at c1
      rw [c1]
    · have h := a2 d
      rw [hu]
      rw [c2, hg] at h
      by_cases k : a.state.chans[d].config.group = g
      · rw [if_pos k] at h ⊢
        rw [if_pos (by rw [Channel.supervised_config]; exact k)] at h
        rw [Channel.autoed_supervised] at h
        exact h
      · rw [if_neg k] at h ⊢
        rw [if_neg k] at h
        exact h

theorem Supervised.fold_spec (n : Nat) (L : List Group) (hL : L.Nodup) (a : Supervised) :
    let t := L.foldl (Supervised.group n) a
    t.state = { a.state with groups := t.state.groups, chans := t.state.chans } ∧
    (∀ g, t.state.groups[g] = if g ∈ L then GroupRec.supervised a.state.groups[g] else a.state.groups[g]) ∧
    (∀ d : Chan, ∀ g, a.state.chans[d].config.group = g →
      (if g ∈ L then a.state.chans[d].worked a.state.groups[g] else a.state.chans[d]).agrees t.state.chans[d]) ∧
    t.runs = a.runs ++ L.flatMap (fun g => GroupRec.endPostings g a.state.groups[g]) ∧
    t.falls = a.falls ++ L.flatMap (fun g => GroupRec.holdPostings g a.state.groups[g]) := by
  induction L generalizing a with
  | nil => exact ⟨rfl, fun g => rfl, fun d g h => Channel.agrees.refl _, (List.append_nil _).symm, (List.append_nil _).symm⟩
  | cons h L ih =>
    obtain ⟨hh, hL⟩ := List.nodup_cons.mp hL
    rw [List.foldl_cons]
    obtain ⟨g1, g2, g3, g4⟩ := Supervised.group_spec n a h
    obtain ⟨i1, i2, i3, i4, i5⟩ := ih hL (Supervised.group n a h)
    rw [g3] at i4
    rw [g4] at i5
    generalize L.foldl (Supervised.group n) (Supervised.group n a h) = t at *
    generalize (Supervised.group n a h).state = u at *
    have ug (g : Group) : u.groups[g] = if h = g then GroupRec.supervised a.state.groups[h] else a.state.groups[g] := by
      have : u.groups[g] = (a.state.groups.set h (GroupRec.supervised a.state.groups[h]))[g] := by rw [g1]
      rw [this, set_get]
    have off (f : Group → GroupRec → List Posting) : L.flatMap (fun g => f g u.groups[g]) = L.flatMap (fun g => f g a.state.groups[g]) := by
      apply List.flatMap_congr
      intro g hg
      rw [ug, if_neg (by rintro rfl; exact hh hg)]
    refine ⟨?_, fun g => ?_, fun d g hg => ?_, ?_, ?_⟩
    · rw [i1, g1]
    · rw [i2, ug]
      by_cases k : h = g
      · subst k; rw [if_neg hh, if_pos rfl, if_pos List.mem_cons_self]
      · rw [if_neg k]
        exact if_congr ⟨fun m => List.mem_cons_of_mem _ m, fun m => (List.mem_cons.mp m).resolve_left (Ne.symm k)⟩ rfl rfl
    · have k2 := g2 d
      rw [hg] at k2
      have hcfg : u.chans[d].config = a.state.chans[d].config := by
        rw [k2.config]; split
        · exact Channel.worked_config _ _
        · rfl
      have := i3 d g (by rw [hcfg]; exact hg)
      rw [ug] at this
      refine Channel.agrees.trans ?_ this
      by_cases k : h = g
      · subst k; rw [if_neg hh, if_pos List.mem_cons_self]; rw [if_pos rfl] at k2; exact k2
      · rw [if_neg k]; rw [if_neg (Ne.symm k)] at k2
        by_cases m : g ∈ L
        · rw [if_pos m, if_pos (List.mem_cons_of_mem _ m)]; exact Channel.worked_agrees _ k2
        · rw [if_neg m, if_neg (fun x => m ((List.mem_cons.mp x).resolve_left (Ne.symm k)))]; exact k2
    · rw [i4, off GroupRec.endPostings, List.flatMap_cons, List.append_assoc]
    · rw [i5, off GroupRec.holdPostings, List.flatMap_cons, List.append_assoc]

/-! ### The whole of a cycle start -/

/-- R115: what ends of fallback are posted at a cycle start, in the order G0 to G3. -/
def State.endPostings (s : State) : List Posting := allGroups.flatMap fun g => GroupRec.endPostings g s.groups[g]

/-- R108: what expired hold checks post at a cycle start, in the order G0 to G3. -/
def State.holdPostings (s : State) : List Posting := allGroups.flatMap fun g => GroupRec.holdPostings g s.groups[g]

/-- The postings of a cycle start, with the ports' own of this moment, in the orders that log 10 leaves open. -/
def State.startPostings (posts : List Posting) (s : State) : List Posting :=
  s.drawn.eitherOrder posts (s.eitherOrder s.endPostings s.holdPostings)

/-- R70, R108 and R115 for all four groups. -/
theorem State.supervise_spec (posts : List Posting) (s : State) :
    let t := s.supervise posts
    t = { s with
      groups := t.groups, chans := t.chans,
      events := (s.startPostings posts).foldl (fun b q => b.post s.cycle.number q) s.events,
      draws := s.draws + 2 } ∧
    (∀ g : Group, t.groups[g] = GroupRec.supervised s.groups[g]) ∧
    ∀ d : Chan, ∀ g, s.chans[d].config.group = g → (s.chans[d].worked s.groups[g]).agrees t.chans[d] := by
  obtain ⟨h1, h2, h3, h4, h5⟩ :=
    Supervised.fold_spec s.draws allGroups (by decide) ⟨s, [], []⟩
  have hall : ∀ g : Group, g ∈ allGroups := by decide
  have e : s.supervise posts =
      let a := allGroups.foldl (Supervised.group s.draws) ⟨s, [], []⟩
      a.state.drawn.drawn.postAll (a.state.drawn.eitherOrder posts (a.state.eitherOrder a.runs a.falls)) := rfl
  generalize allGroups.foldl (Supervised.group s.draws) ⟨s, [], []⟩ = a at *
  dsimp only at e h1 h4 h5 ⊢
  have hd : a.state.draws = s.draws := by rw [h1]
  have hp : a.state.drawn.eitherOrder posts (a.state.eitherOrder a.runs a.falls) = s.startPostings posts := by
    unfold State.startPostings State.eitherOrder State.drawn
    dsimp only
    rw [hd, h4, h5, List.nil_append, List.nil_append]; rfl
  rw [hp] at e
  generalize s.startPostings posts = ps at *
  have e2 : s.supervise posts = { s with
      groups := a.state.groups, chans := a.state.chans,
      events := ps.foldl (fun b q => b.post s.cycle.number q) s.events, draws := s.draws + 2 } := by
    rw [e, State.postAll_events]
    generalize a.state.groups = G at h1
    generalize a.state.chans = C at h1
    unfold State.drawn
    rw [h1]
  rw [e2]
  refine ⟨rfl, fun g => ?_, fun d g hg => ?_⟩
  · have := h2 g; rw [if_pos (hall g)] at this; exact this
  · have := h3 d g hg; rw [if_pos (hall g)] at this; exact this

/-- R69 for one channel of a group. -/
def Channel.copied (r : GroupRec) (c : Channel) : Channel := if r.state.commits then c.copyArmed else c

theorem Channel.copied_config (r : GroupRec) (c : Channel) : (c.copied r).config = c.config := by
  unfold Channel.copied; split <;> rfl

theorem State.copyArmed_spec (s : State) : s.copyArmed = { s with chans := s.copyArmed.chans } ∧
    ∀ d : Chan, ∀ g, s.chans[d].config.group = g → s.copyArmed.chans[d] = s.chans[d].copied s.groups[g] := by
  refine ⟨rfl, fun d g hg => ?_⟩
  subst hg
  exact mapChans_get _ _ _

/-- R94 and R96: what a cycle start settles in one channel of a group; `live` is the channel's active record
as R69's copy left it. -/
def Channel.settled (live : Active) (r : GroupRec) (c : Channel) : Channel :=
  if r.state = .stopped then c
  else match c.config.mode with
    | .level => { c with latch := decide (live.setpoint ≠ 0) }
    | .width => { c with
        phase := decide (live.delay = 0) && decide (live.setpoint ≠ 0) && decide (c.active.setpoint ≠ 0) }
    | .oneshot => c
    | .off => c
    | .follow => c

theorem Channel.settled_config (live : Active) (r : GroupRec) (c : Channel) :
    (c.settled live r).config = c.config := by
  unfold Channel.settled; repeat' split
  all_goals rfl

theorem Channel.settled_agrees (live : Active) (r : GroupRec) {a b : Channel} (h : a.agrees b) :
    (a.settled live r).agrees (b.settled live r) := by
  obtain ⟨sh, ig, rfl⟩ := h
  unfold Channel.settled
  by_cases k : r.state = .stopped
  · rw [if_pos k, if_pos k]; exact ⟨_, _, rfl⟩
  · rw [if_neg k, if_neg k]
    dsimp only
    cases a.config.mode <;> exact ⟨_, _, rfl⟩

/-- R82: what the drive channels do at a cycle start. -/
theorem State.driveCycleStart_spec (live : Vector Channel 6) (s : State) :
    s.driveCycleStart live = { s with chans := (s.driveCycleStart live).chans } ∧
    ∀ d : Chan, ∀ g, s.chans[d].config.group = g →
      (s.chans[d].settled live[d].active s.groups[g]).agrees (s.driveCycleStart live).chans[d] := by
  refine ⟨State.drive_eq _ _, fun d g hg => ?_⟩
  subst hg
  unfold State.driveCycleStart
  rw [State.drive_get]
  obtain ⟨sh, e, -⟩ := Channel.led_eq s.now s.groups (sweepEnds s.now s.groups
    (fun d c => c.atCycleStart live[d] s.groups s.now) s.chans (allChans.take d.val))
    (s.chans[d].atCycleStart live[d] s.groups s.now).1
  rw [e]
  unfold Channel.atCycleStart Channel.settled
  by_cases h : s.groups[s.chans[d].config.group].state = .stopped
  · simp only [if_pos h]; exact ⟨_, _, rfl⟩
  · simp only [if_neg h]
    cases hm : s.chans[d].config.mode
    · exact ⟨_, _, rfl⟩
    · exact ⟨_, _, rfl⟩
    · exact ⟨_, _, rfl⟩
    · obtain ⟨sh, ig, e⟩ := Channel.oneshotOn_eq .cycle s.groups s.now s.chans[d]
      dsimp only
      rw [e]
      exact ⟨_, _, rfl⟩
    · exact ⟨_, _, rfl⟩

theorem GroupRec.supervised_stopped (r : GroupRec) : (GroupRec.supervised r).state = .stopped ↔ r.state = .stopped := by
  unfold GroupRec.supervised
  by_cases h : r.state ≠ .run
  · rw [if_pos h]
  · rw [if_neg h]
    have k : r.state = .run := not_not.mp h
    cases r.endPending <;> cases GroupRec.holdExpires r <;>
      simp [GroupRec.fallen, k]

theorem Channel.autoed_settled (live : Active) (r r' : GroupRec) (c : Channel) :
    (c.settled live r').autoed r = (c.autoed r).settled live r' := by
  unfold Channel.autoed
  split
  · unfold Channel.settled Channel.commit
    by_cases h : r'.state = .stopped
    · simp only [if_pos h]
    · simp only [if_neg h]
      cases hs : c.stage.isEmpty <;> cases hm : c.config.mode <;> simp [hs, hm]
  · rfl

/-- The order of the channels and the supervisor (log 9) leaves the same records, latch and phase. -/
theorem Channel.settled_worked (live : Active) (r : GroupRec) (c : Channel) (h : c.active = live) :
    (c.settled live r).worked r = (c.worked r).settled live (GroupRec.supervised r) := by
  unfold Channel.worked
  rw [Channel.autoed_settled]
  have ha : (c.autoed r).active = live := by
    unfold Channel.autoed Channel.commit; (repeat' split) <;> exact h
  generalize c.autoed r = c at ha
  by_cases hs : r.state = .stopped
  · have hs' := (GroupRec.supervised_stopped r).mpr hs
    unfold Channel.settled
    rw [if_pos hs, if_pos hs']
  · have hs' := mt (GroupRec.supervised_stopped r).mp hs
    unfold Channel.settled
    rw [if_neg hs, if_neg hs']
    rw [Channel.supervised_config]
    unfold Channel.supervised
    subst ha
    by_cases k : r.state ≠ .run
    · simp only [if_pos k]
    · simp only [if_neg k]
      cases c.config.mode <;> cases r.endPending <;> cases GroupRec.holdExpires r <;>
        simp only [Bool.false_eq_true, if_false, if_true, Channel.enterFallback] <;>
        cases c.config.action <;> simp [Channel.emptied]
      all_goals exact fun _ h => decide_eq_true h

/-- R69, R70, R94, R96, R108 and R115: a channel of a group after a cycle start, but for its shot and its
ignored-trigger count. -/
def Channel.cycled (r : GroupRec) (c : Channel) : Channel :=
  ((c.copied r).worked r).settled (c.copied r).active (GroupRec.supervised r)

/-- R82 with R69, R70, R94, R96, R108, R115, R125 and R134: all that a cycle start can do, but for shots and
ignored-trigger counts, whatever log 9 leaves open. -/
theorem State.cycleStart_spec (posts : List Posting) (s : State) :
    let t := s.cycleStart posts
    t = { s with
      chans := t.chans, groups := t.groups, caps := t.caps,
      sampler := Sampler.atEvent .cycle s.now s.sampler,
      events := (s.startPostings posts).foldl (fun b q => b.post s.cycle.number q) s.events,
      draws := s.draws + 2 } ∧
    (∀ g : Group, t.groups[g] = GroupRec.supervised s.groups[g]) ∧
    (∀ d : Chan, ∀ g, s.chans[d].config.group = g → (s.chans[d].cycled s.groups[g]).agrees t.chans[d]) ∧
    ∀ k : CapIn, t.caps[k] = s.caps[k].atCycleStart := by
  intro t
  obtain ⟨c1, c2⟩ := State.copyArmed_spec s
  generalize hdr : (if Config.channelsFirst s.draws then (s.copyArmed.driveCycleStart s.copyArmed.chans).supervise posts
    else (s.copyArmed.supervise posts).driveCycleStart s.copyArmed.chans) = dr
  have ht : t = (({ dr with caps := mapCaps Capture.atCycleStart dr.caps } : State)).samplerEvent .cycle := by
    show s.cycleStart posts = _
    unfold State.cycleStart; dsimp only; rw [hdr]
  generalize s.copyArmed = cp at *
  have sp (u : State) (C : Vector Channel 6) (h : u = { s with chans := C }) :
      u.startPostings posts = s.startPostings posts := by rw [h]; rfl
  have main : dr = { s with
        chans := dr.chans, groups := dr.groups,
        events := (s.startPostings posts).foldl (fun b q => b.post s.cycle.number q) s.events,
        draws := s.draws + 2 } ∧
      (∀ g : Group, dr.groups[g] = GroupRec.supervised s.groups[g]) ∧
      ∀ d : Chan, ∀ g, s.chans[d].config.group = g → (s.chans[d].cycled s.groups[g]).agrees dr.chans[d] := by
    by_cases hb : Config.channelsFirst s.draws = true
    · rw [if_pos hb] at hdr
      subst hdr
      obtain ⟨d1, d2⟩ := State.driveCycleStart_spec cp.chans cp
      obtain ⟨s1, s2, s3⟩ := State.supervise_spec posts (cp.driveCycleStart cp.chans)
      generalize (cp.driveCycleStart cp.chans).supervise posts = v at *
      generalize cp.driveCycleStart cp.chans = u at *
      have cg : cp.groups = s.groups := by rw [c1]
      have us : u = { s with chans := u.chans } := by
        generalize u.chans = A at d1 ⊢
        generalize cp.chans = B at c1
        rw [d1, c1]
      have ug : u.groups = s.groups := by rw [us]
      refine ⟨?_, fun g => ?_, fun d g hg => ?_⟩
      · rw [sp u u.chans us] at s1
        generalize v.chans = A at s1 ⊢
        generalize v.groups = B at s1 ⊢
        generalize u.chans = C at us
        rw [s1, us]
      · rw [s2]; simp only [ug]
      · have h1 := d2 d g (by rw [c2 d g hg, Channel.copied_config]; exact hg)
        rw [c2 d g hg] at h1
        simp only [cg] at h1
        have h2 := s3 d g (by rw [h1.config, Channel.settled_config, Channel.copied_config]; exact hg)
        simp only [ug] at h2
        have := Channel.worked_agrees s.groups[g] h1
        rw [Channel.settled_worked _ _ _ rfl] at this
        exact this.trans h2
    · rw [if_neg hb] at hdr
      subst hdr
      obtain ⟨s1, s2, s3⟩ := State.supervise_spec posts cp
      obtain ⟨d1, d2⟩ := State.driveCycleStart_spec cp.chans (cp.supervise posts)
      rw [sp cp cp.chans c1] at s1
      generalize (cp.supervise posts).driveCycleStart cp.chans = v at *
      generalize cp.supervise posts = u at *
      have cg : cp.groups = s.groups := by rw [c1]
      have vg : v.groups = u.groups := by rw [d1]
      refine ⟨?_, fun g => ?_, fun d g hg => ?_⟩
      · generalize u.chans = A at s1
        generalize u.groups = B at s1 vg
        generalize cp.chans = C at c1
        have h : v = { s with
            chans := v.chans, groups := B,
            events := (s.startPostings posts).foldl (fun b q => b.post s.cycle.number q) s.events,
            draws := s.draws + 2 } := by
          generalize v.chans = X at d1 ⊢
          rw [d1, s1, c1]
        rw [vg]; exact h
      · simp only [vg]; rw [s2]; simp only [cg]
      · have h1 := s3 d g (by rw [c2 d g hg, Channel.copied_config]; exact hg)
        rw [c2 d g hg] at h1
        simp only [cg] at h1
        have h2 := d2 d g (by rw [h1.config, Channel.worked_config, Channel.copied_config]; exact hg)
        have hug : u.groups[g] = GroupRec.supervised s.groups[g] := by rw [s2]; simp only [cg]
        rw [hug] at h2
        refine Channel.agrees.trans ?_ h2
        have := Channel.settled_agrees (s.chans[d].copied s.groups[g]).active (GroupRec.supervised s.groups[g]) h1
        rw [c2 d g hg]
        exact this
  obtain ⟨m1, m2, m3⟩ := main
  have ht2 : t = { dr with
      caps := mapCaps Capture.atCycleStart dr.caps,
      sampler := Sampler.atEvent .cycle dr.now dr.sampler } := by
    rw [ht, State.samplerEvent_eq]
  have hcaps : dr.caps = s.caps := by rw [m1]
  have hnow : dr.now = s.now := by rw [m1]
  have hsm : dr.sampler = s.sampler := by rw [m1]
  refine ⟨?_, fun g => ?_, fun d g hg => ?_, fun k => ?_⟩
  · rw [ht2, hnow, hsm]
    generalize mapCaps Capture.atCycleStart dr.caps = X
    generalize dr.chans = A at m1 ⊢
    generalize dr.groups = B at m1 ⊢
    rw [m1]
  · have : t.groups[g] = dr.groups[g] := by rw [ht2]
    rw [this, m2]
  · have : t.chans[d] = dr.chans[d] := by rw [ht2]
    rw [this]; exact m3 d g hg
  · have : t.caps[k] = (mapCaps Capture.atCycleStart dr.caps)[k] := by rw [ht2]
    rw [this, mapCaps_get]; simp only [hcaps]

end Sys2Proof.Machine
end

