-- ==== Sys2Proof/Laws/CycleShots.lean ====
section
/-!
SUPPORT. The shots that a cycle start moves: the triggers of CYCLE and COMMIT that ONESHOT channels take, and
the leader ends that reach a follower (R70, R97, R101, R102).
-/

namespace Sys2Proof.Machine

/-- A hold check or an AUTO commit of R108's order leaves the shot: the group does not fall, or its action
keeps the shot. -/
def Channel.calm (r : GroupRec) (c : Channel) : Prop := GroupRec.holdExpires r = false ∨ c.config.action = .hold

/-- The supervisor's work and the commit of records leave a calm channel's shot and count alone. -/
theorem Channel.worked_shot (r : GroupRec) (c : Channel) (sh : Shot) (ig : Byte) (h : c.calm r) :
    ({ c with shot := sh, ignored := ig } : Channel).worked r = { c.worked r with shot := sh, ignored := ig } := by
  unfold Channel.worked
  have e : ({ c with shot := sh, ignored := ig } : Channel).autoed r = { c.autoed r with shot := sh, ignored := ig } := by
    unfold Channel.autoed Channel.commit; dsimp only; (repeat' split) <;> rfl
  rw [e]
  have hc : (c.autoed r).calm r := by unfold Channel.calm; rw [Channel.autoed_config]; exact h
  generalize c.autoed r = c at hc
  unfold Channel.supervised
  by_cases k : r.state ≠ .run
  · simp only [if_pos k]
  · simp only [if_neg k]
    rcases hc with hc | hc
    · rw [hc]; cases r.endPending <;> rfl
    · cases r.endPending <;> cases GroupRec.holdExpires r <;>
        simp only [Bool.false_eq_true, if_false, if_true, Channel.enterFallback, hc] <;> rfl

theorem Channel.worked_same_shot (r : GroupRec) (c : Channel) (h : c.calm r) :
    (c.worked r).shot = c.shot ∧ (c.worked r).ignored = c.ignored := by
  have := Channel.worked_shot r c c.shot c.ignored h
  rw [show ({ c with shot := c.shot, ignored := c.ignored } : Channel) = c from rfl] at this
  rw [this]; exact ⟨rfl, rfl⟩

/-- What a calm channel with no override keeps. -/
theorem Channel.worked_free (r : GroupRec) (c : Channel) (h : c.calm r) (ho : c.override = .none) :
    (c.worked r).override = .none ∧ (c.worked r).active = c.active ∧ (c.worked r).phase = c.phase := by
  have e : (c.autoed r).override = .none ∧ (c.autoed r).active = c.active ∧ (c.autoed r).phase = c.phase ∧
      (c.autoed r).config = c.config := by
    unfold Channel.autoed Channel.commit; (repeat' split) <;> exact ⟨ho, rfl, rfl, rfl⟩
  obtain ⟨e1, e2, e3, e4⟩ := e
  rw [← e2, ← e3]
  unfold Channel.worked
  have hc : (c.autoed r).calm r := by unfold Channel.calm; rw [e4]; exact h
  generalize c.autoed r = c at *
  unfold Channel.supervised
  by_cases k : r.state ≠ .run
  · simp only [if_pos k]; exact ⟨e1, trivial, trivial⟩
  · simp only [if_neg k]
    rcases hc with hc | hc
    · rw [hc]; cases r.endPending <;> simp [e1]
    · cases r.endPending <;> cases GroupRec.holdExpires r <;>
        simp [Channel.enterFallback, hc, e1, Channel.emptied]

/-- An AUTO commit's triggers and their leader ends do not reach this channel. -/
def deafToCommit (v : Vector Channel 6) (d : Chan) : Prop :=
  (v[d].config.mode = .oneshot → v[d].config.trigger ≠ some .commit) ∧
  (v[d].config.mode = .follow → ∀ l, v[d].config.leader = some l → v[l].config.mode ≠ .follow ∧
    (v[l].config.mode = .oneshot → v[l].config.trigger ≠ some .commit))

theorem deafToCommit_congr {v w : Vector Channel 6} (h : ∀ d : Chan, w[d].config = v[d].config) {d : Chan}
    (hd : deafToCommit v d) : deafToCommit w d := by
  unfold deafToCommit at *
  simp only [h]
  exact hd

theorem takeChans_nodup : ∀ d : Chan, (allChans.take d.val).Nodup := by decide

theorem mem_allGroups : ∀ g : Group, g ∈ allGroups := by decide

/-- R70: an AUTO commit request of a group, at a channel that no COMMIT trigger reaches. -/
theorem State.requestAuto_deaf (g : Group) (s : State) (d : Chan) (hd : deafToCommit s.chans d) :
    (s.requestCommit .auto g).chans[d] =
      if s.chans[d].config.group = g then s.chans[d].autoed s.groups[g] else s.chans[d] := by
  rw [State.requestAuto_eq]
  unfold Channel.autoed
  split
  · have hm := State.mapGroupChans_get g (fun c => c.commit) s
    have hcfg : ∀ d : Chan, (s.mapGroupChans g fun c => c.commit).chans[d].config = s.chans[d].config := by
      intro d; rw [hm]; split
      · exact Channel.commit_config _
      · rfl
    have hd' := deafToCommit_congr hcfg hd
    rw [← hm d]
    generalize s.mapGroupChans g (fun c => c.commit) = u at hd'
    unfold State.triggerCommit
    rw [State.drive_get]
    have own_eq : ∀ e : Chan, ((if u.chans[e].config.group = g then u.chans[e].oneshotOn .commit u.groups u.now
        else (u.chans[e], false)) ).2 = true → u.chans[e].config.mode = .oneshot ∧ u.chans[e].config.trigger = some .commit := by
      intro e he
      split at he
      · unfold Channel.oneshotOn at he
        split at he
        · rename_i k; exact ⟨k.1, k.2.1⟩
        · cases he
      · cases he
    have hown : (if u.chans[d].config.group = g then u.chans[d].oneshotOn .commit u.groups u.now
        else (u.chans[d], false)) = (u.chans[d], false) := by
      split
      · unfold Channel.oneshotOn
        rw [if_neg (fun k => hd'.1 k.1 k.2.1)]
      · rfl
    rw [hown]
    have hP := sweepEnds_ind u.now u.groups (fun _ c => if c.config.group = g then c.oneshotOn .commit u.groups u.now else (c, false))
      (fun e => u.chans[e].config.mode = .follow ∨ (u.chans[e].config.mode = .oneshot ∧ u.chans[e].config.trigger = some .commit))
      u.chans (allChans.take d.val) (takeChans_nodup d) (fun e _ k => Or.inr (own_eq e k))
      (fun e _ E _ k => Or.inl (by
        have hc : ((if u.chans[e].config.group = g then u.chans[e].oneshotOn .commit u.groups u.now else (u.chans[e], false))).1.config = u.chans[e].config := by
          split
          · obtain ⟨_, _, q⟩ := Channel.oneshotOn_eq .commit u.groups u.now u.chans[e]; rw [q]
          · rfl
        unfold Channel.follows at k
        rw [hc] at k
        exact of_decide_eq_true (Bool.and_eq_true_iff.mp k).1))
    generalize sweepEnds _ _ _ _ _ = E at hP
    unfold Channel.led
    rw [if_neg]
    intro k
    have k := (Bool.and_eq_true_iff.mp k).1
    unfold Channel.follows at k
    have k1 := of_decide_eq_true (Bool.and_eq_true_iff.mp k).1
    have k2 := (Bool.and_eq_true_iff.mp k).2
    cases hl : u.chans[d].config.leader with
    | none => simp only [hl] at k2; cases k2
    | some l =>
      simp only [hl] at k2
      have hin := hP l (List.contains_iff_mem.mp k2)
      obtain ⟨q1, q2⟩ := hd'.2 k1 l hl
      rcases hin with z | z
      · exact q1 z
      · exact q2 z.1 z.2
  · rw [ite_self]

theorem Supervised.group_deaf (n : Nat) (a : Supervised) (g : Group) (d : Chan) (hd : deafToCommit a.state.chans d) :
    (Supervised.group n a g).state.chans[d] =
      if a.state.chans[d].config.group = g then a.state.chans[d].worked a.state.groups[g] else a.state.chans[d] := by
  unfold Supervised.group
  split
  · obtain ⟨-, c2⟩ := Supervised.check_spec g (a.auto g)
    obtain ⟨a1, -⟩ := State.requestAuto_spec g a.state
    have h := State.requestAuto_deaf g a.state d hd
    rw [c2]
    show (if (a.state.requestCommit .auto g).chans[d].config.group = g then
      Channel.supervised (a.state.requestCommit .auto g).groups[g] (a.state.requestCommit .auto g).chans[d] else
        (a.state.requestCommit .auto g).chans[d]) = _
    have hg : (a.state.requestCommit .auto g).groups = a.state.groups := by rw [a1]
    rw [h]; simp only [hg]
    by_cases k : a.state.chans[d].config.group = g
    · simp only [if_pos k]
      rw [if_pos (by rw [Channel.autoed_config]; exact k)]; rfl
    · simp only [if_neg k]
  · obtain ⟨c1, c2⟩ := Supervised.check_spec g a
    have hcfg : ∀ e : Chan, (a.check g).state.chans[e].config = a.state.chans[e].config := by
      intro e; rw [c2]; split
      · exact Channel.supervised_config _ _
      · rfl
    have h := State.requestAuto_deaf g (a.check g).state d (deafToCommit_congr hcfg hd)
    show ((a.check g).state.requestCommit .auto g).chans[d] = _
    have hg : (a.check g).state.groups[g] = GroupRec.supervised a.state.groups[g] := by
      have : (a.check g).state.groups = a.state.groups.set g (GroupRec.supervised a.state.groups[g]) := by rw [c1]
      simp only [this]; rw [set_get, if_pos rfl]
    rw [h, hcfg, c2, hg]
    by_cases k : a.state.chans[d].config.group = g
    · simp only [if_pos k]; exact Channel.autoed_supervised _ _
    · simp only [if_neg k]

theorem Supervised.fold_config (n : Nat) (L : List Group) (a : Supervised) (d : Chan) :
    (L.foldl (Supervised.group n) a).state.chans[d].config = a.state.chans[d].config := by
  induction L generalizing a with
  | nil => rfl
  | cons h L ih =>
    rw [List.foldl_cons, ih]
    obtain ⟨-, g2, -⟩ := Supervised.group_spec n a h
    rw [(g2 d).config]; split
    · exact Channel.worked_config _ _
    · rfl

theorem Supervised.fold_deaf (n : Nat) (L : List Group) (hL : L.Nodup) (a : Supervised) (d : Chan) (g : Group)
    (hd : deafToCommit a.state.chans d) (hg : a.state.chans[d].config.group = g) :
    (L.foldl (Supervised.group n) a).state.chans[d] =
      if g ∈ L then a.state.chans[d].worked a.state.groups[g] else a.state.chans[d] := by
  induction L generalizing a with
  | nil => rfl
  | cons h L ih =>
    obtain ⟨hh, hL⟩ := List.nodup_cons.mp hL
    rw [List.foldl_cons]
    obtain ⟨g1, -⟩ := Supervised.group_spec n a h
    have e := Supervised.group_deaf n a h d hd
    have hcfg : ∀ e : Chan, (Supervised.group n a h).state.chans[e].config = a.state.chans[e].config :=
      fun e => Supervised.fold_config n [h] a e
    rw [ih hL _ (deafToCommit_congr hcfg hd) (by rw [hcfg]; exact hg), e, hg]
    have ug : (Supervised.group n a h).state.groups[g] = if h = g then GroupRec.supervised a.state.groups[h] else a.state.groups[g] := by
      have : (Supervised.group n a h).state.groups[g] = (a.state.groups.set h (GroupRec.supervised a.state.groups[h]))[g] := by rw [g1]
      rw [this, set_get]
    rw [ug]
    by_cases k : h = g
    · subst k; rw [if_neg hh, if_pos List.mem_cons_self, if_pos rfl]
    · rw [if_neg k, if_neg (Ne.symm k)]
      exact if_congr ⟨fun m => List.mem_cons_of_mem _ m, fun m => (List.mem_cons.mp m).resolve_left (Ne.symm k)⟩ rfl rfl

/-- R70, R108 and R115, at a channel that no COMMIT trigger reaches. -/
theorem State.supervise_deaf (posts : List Posting) (s : State) (d : Chan) (g : Group)
    (hd : deafToCommit s.chans d) (hg : s.chans[d].config.group = g) :
    (s.supervise posts).chans[d] = s.chans[d].worked s.groups[g] := by
  have h := Supervised.fold_deaf s.draws allGroups (by decide) ⟨s, [], []⟩ d g hd hg
  rw [if_pos (mem_allGroups g)] at h
  have e : (s.supervise posts).chans = (allGroups.foldl (Supervised.group s.draws) ⟨s, [], []⟩).state.chans := by
    unfold State.supervise State.postBoth
    dsimp only
    rw [State.postAll_events]; rfl
  simp only [e]; exact h

/-- R96: the WIDTH phase for count 0, by a record. -/
def Active.widthPhase (a : Active) : Bool := decide (a.delay = 0) && decide (a.setpoint ≠ 0)

/-- R97 and R99: the shot and the ignored-trigger count that a trigger leaves. -/
def Channel.triggered (live : Active) (now : Time) (c : Channel) : Shot × Byte :=
  if c.shot = .idle ∨ c.config.retrigger = some .restart then (Shot.start live now, c.ignored)
  else (c.shot, satInc c.ignored)

theorem Channel.trigger_eq (now : Time) (c : Channel) :
    (c.trigger now).1 = { c with shot := (c.triggered c.active now).1, ignored := (c.triggered c.active now).2 } := by
  unfold Channel.trigger Channel.triggered
  split <;> rfl

theorem Channel.takes_iff (gs : Vector GroupRec 4) (c : Channel) :
    c.takes gs = true ↔ gs[c.config.group].state ≠ .stopped ∧ c.override = .none := by
  unfold Channel.takes
  rw [Bool.and_eq_true_iff, decide_eq_true_iff, decide_eq_true_iff]

/-- R101: the cycle start ends the output of this channel, which no override hides. -/
def Channel.endsOn (live : Active) (now : Time) (c : Channel) : Bool :=
  match c.config.mode with
  | .width => c.phase && !live.widthPhase
  | .oneshot => decide (c.config.trigger = some .cycle) && decide (c.config.retrigger = some .restart)
      && c.shot.isActive && !(Shot.start live now).isActive
  | .off => false
  | .level => false
  | .follow => false

/-- R94 to R102: a channel at a cycle start, by its own mode alone; with no override, and its record as R69's
copy left it. -/
theorem Channel.atCycleStart_free (live : Channel) (gs : Vector GroupRec 4) (now : Time) (c : Channel)
    (hs : gs[c.config.group].state ≠ .stopped) (ho : c.override = .none) (hl : live.override = .none)
    (ha : c.active = live.active) (hm : c.config.mode ≠ .level) :
    (c.atCycleStart live gs now).2 = c.endsOn live.active now := by
  unfold Channel.atCycleStart Channel.endsOn
  rw [if_neg hs]
  cases hm' : c.config.mode
  · rfl
  · exact absurd hm' hm
  · unfold Channel.widthAtStart Channel.endsAtStart Active.widthPhase
    dsimp only
    rw [ha, hl, ho]
    cases c.phase <;> cases decide (live.active.delay = 0) <;> cases decide (live.active.setpoint ≠ 0) <;> rfl
  · dsimp only
    unfold Channel.oneshotOn
    by_cases ht : c.config.trigger = some .cycle
    · rw [if_pos ⟨hm', ht, (c.takes_iff gs).mpr ⟨hs, ho⟩⟩]
      unfold Channel.trigger Channel.startShot
      rw [ha]
      by_cases hi : c.shot = .idle
      · simp [hi, Shot.isActive]
      · by_cases hr : c.config.retrigger = some .restart <;> simp [hi, hr, ht]
    · rw [if_neg (fun k => ht k.2.1)]
      simp [ht]
  · rfl

/-- R97: a ONESHOT channel with no override takes a CYCLE trigger. -/
theorem Channel.oneshotOn_free (src : ChanTrigger) (gs : Vector GroupRec 4) (now : Time) (c : Channel)
    (hm : c.config.mode = .oneshot) (ht : c.config.trigger = some src)
    (hs : gs[c.config.group].state ≠ .stopped) (ho : c.override = .none) :
    (c.oneshotOn src gs now).1 =
      { c with shot := (c.triggered c.active now).1, ignored := (c.triggered c.active now).2 } := by
  unfold Channel.oneshotOn
  rw [if_pos ⟨hm, ht, (c.takes_iff gs).mpr ⟨hs, ho⟩⟩, Channel.trigger_eq]

theorem Channel.oneshotOn_barred (src : ChanTrigger) (gs : Vector GroupRec 4) (now : Time) (c : Channel)
    (h : gs[c.config.group].state = .stopped ∨ c.override ≠ .none) : c.oneshotOn src gs now = (c, false) := by
  unfold Channel.oneshotOn
  rw [if_neg]
  rintro ⟨-, -, k⟩
  rw [Channel.takes_iff] at k
  rcases h with h | h
  · exact k.1 h
  · exact h k.2

/-- The leader ends of a cycle start's pass that a follower sees: those of a lower channel that is no follower. -/
theorem sweepEnds_leader (now : Time) (gs : Vector GroupRec 4) (own : Chan → Channel → Channel × Bool)
    (v : Vector Channel 6) (l f : Chan) (h : l < f) (hc : (own l v[l]).1.config.mode ≠ .follow) :
    l ∈ sweepEnds now gs own v (allChans.take f.val) ↔ (own l v[l]).2 = true := by
  refine ⟨fun k => ?_, sweepEnds_own now gs own v l f h⟩
  have hP := sweepEnds_ind now gs own (fun e => e = l → (own l v[l]).2 = true) v (allChans.take f.val)
    (takeChans_nodup f) (by rintro e - q rfl; exact q) (by
      rintro e - E - q rfl
      unfold Channel.follows at q
      exact absurd (of_decide_eq_true (Bool.and_eq_true_iff.mp q).1) hc)
  exact hP l k rfl

theorem State.drive_config (own : Chan → Channel → Channel × Bool) (s : State)
    (h : ∀ (e : Chan) (c : Channel), (own e c).1.config = c.config) (d : Chan) :
    (s.drive own).chans[d].config = s.chans[d].config := by
  rw [State.drive_get]
  obtain ⟨sh, e, -⟩ := Channel.led_eq s.now s.groups (sweepEnds s.now s.groups own s.chans (allChans.take d.val)) (own d s.chans[d]).1
  rw [e]; exact h d _

theorem Channel.atCycleStart_config (live : Channel) (gs : Vector GroupRec 4) (now : Time) (c : Channel) :
    (c.atCycleStart live gs now).1.config = c.config := by
  unfold Channel.atCycleStart
  split
  · rfl
  · cases c.config.mode
    · rfl
    · rfl
    · rfl
    · obtain ⟨_, _, e⟩ := Channel.oneshotOn_eq .cycle gs now c
      dsimp only
      rw [e]
    · rfl

/-- The follower's own part of a cycle start's pass. -/
theorem State.driveCycleStart_follower (live : Vector Channel 6) (s : State) (f l : Chan) (h : l < f)
    (hm : s.chans[f].config.mode = .follow) (hl : s.chans[f].config.leader = some l)
    (hlm : s.chans[l].config.mode ≠ .follow) :
    (s.driveCycleStart live).chans[f] =
      if (s.chans[l].atCycleStart live[l] s.groups s.now).2 = true ∧ s.chans[f].takes s.groups = true then
        { s.chans[f] with shot := Shot.start s.chans[f].active s.now } else s.chans[f] := by
  unfold State.driveCycleStart
  rw [State.drive_get]
  have hown : s.chans[f].atCycleStart live[f] s.groups s.now = (s.chans[f], false) := by
    unfold Channel.atCycleStart; rw [hm]; exact ite_self _
  rw [hown]
  have hE := sweepEnds_leader s.now s.groups (fun d c => c.atCycleStart live[d] s.groups s.now) s.chans l f h
    (by rw [Channel.atCycleStart_config]; exact hlm)
  generalize sweepEnds _ _ _ _ _ = E at hE
  unfold Channel.led Channel.follows
  simp only [hm, hl, decide_true, Bool.true_and]
  have : E.contains l = (s.chans[l].atCycleStart live[l] s.groups s.now).2 := by
    rw [Bool.eq_iff_iff, List.contains_iff_mem]; exact hE
  rw [this]
  simp only [Bool.and_eq_true]
  rfl

theorem State.driveCycleStart_other (live : Vector Channel 6) (s : State) (d : Chan)
    (hm : s.chans[d].config.mode ≠ .follow) :
    (s.driveCycleStart live).chans[d] = (s.chans[d].atCycleStart live[d] s.groups s.now).1 := by
  unfold State.driveCycleStart
  rw [State.drive_get]
  exact Channel.led_of_not_follow (by rw [Channel.atCycleStart_config]; exact hm)

/-! ### Shots at a cycle start -/

theorem State.cycleStart_chans (posts : List Posting) (s : State) :
    (s.cycleStart posts).chans =
      if Config.channelsFirst s.draws then ((s.copyArmed.driveCycleStart s.copyArmed.chans).supervise posts).chans
      else ((s.copyArmed.supervise posts).driveCycleStart s.copyArmed.chans).chans := by
  unfold State.cycleStart
  dsimp only
  rw [State.samplerEvent_eq]
  by_cases h : Config.channelsFirst s.draws = true
  · simp only [if_pos h]
  · simp only [if_neg h]

theorem State.cycleStart_get (posts : List Posting) (s : State) (d : Chan) :
    (s.cycleStart posts).chans[d] =
      if Config.channelsFirst s.draws then
        ((s.copyArmed.driveCycleStart s.copyArmed.chans).supervise posts).chans[d]
      else ((s.copyArmed.supervise posts).driveCycleStart s.copyArmed.chans).chans[d] := by
  simp only [State.cycleStart_chans]
  by_cases h : Config.channelsFirst s.draws = true
  · simp only [if_pos h]
  · simp only [if_neg h]

theorem Channel.copied_shot (r : GroupRec) (c : Channel) :
    (c.copied r).shot = c.shot ∧ (c.copied r).ignored = c.ignored ∧ (c.copied r).override = c.override ∧
      (c.copied r).phase = c.phase := by
  unfold Channel.copied; split <;> exact ⟨rfl, rfl, rfl, rfl⟩

/-- What the two halves of a cycle start find, in either order. -/
theorem State.cycleStart_halves (posts : List Posting) (s : State) :
    let k := s.copyArmed
    let a := k.driveCycleStart k.chans
    let b := k.supervise posts
    k.groups = s.groups ∧ k.now = s.now ∧ a.groups = s.groups ∧ b.now = s.now ∧
    (∀ g : Group, b.groups[g] = GroupRec.supervised s.groups[g]) ∧
    (∀ d : Chan, k.chans[d].config = s.chans[d].config) ∧
    (∀ d : Chan, a.chans[d].config = s.chans[d].config) ∧
    ∀ d : Chan, b.chans[d].config = s.chans[d].config := by
  obtain ⟨c1, c2⟩ := State.copyArmed_spec s
  obtain ⟨d1, d2⟩ := State.driveCycleStart_spec s.copyArmed.chans s.copyArmed
  obtain ⟨s1, s2, s3⟩ := State.supervise_spec posts s.copyArmed
  have hk : ∀ d : Chan, s.copyArmed.chans[d].config = s.chans[d].config := fun d => by
    rw [c2 d _ rfl, Channel.copied_config]
  dsimp only at s1 s2 s3 ⊢
  refine ⟨rfl, rfl, by rw [d1]; rfl, by rw [s1]; rfl, s2, hk, fun d => ?_, fun d => ?_⟩
  · rw [(d2 d _ rfl).config, Channel.settled_config, hk]
  · rw [(s3 d _ rfl).config, Channel.worked_config, hk]

theorem Channel.atCycleStart_settled (live : Channel) (gs : Vector GroupRec 4) (now : Time) (c : Channel)
    (h : c.config.mode = .oneshot → c.config.trigger ≠ some .cycle) :
    (c.atCycleStart live gs now).1 = c.settled live.active gs[c.config.group] := by
  unfold Channel.atCycleStart Channel.settled
  by_cases k : gs[c.config.group].state = .stopped
  · simp only [if_pos k]
  · simp only [if_neg k]
    cases hm : c.config.mode
    · rfl
    · rfl
    · rfl
    · dsimp only
      unfold Channel.oneshotOn
      rw [if_neg (fun q => h hm q.2.1)]
    · rfl

/-- A channel that no trigger and no leader end reaches at a cycle start. -/
theorem State.cycleStart_plain (posts : List Posting) (s : State) (d : Chan) (g : Group)
    (hg : s.chans[d].config.group = g) (hf : s.chans[d].config.mode ≠ .follow)
    (ht : s.chans[d].config.mode = .oneshot →
      s.chans[d].config.trigger ≠ some .commit ∧ s.chans[d].config.trigger ≠ some .cycle) :
    (s.cycleStart posts).chans[d] = s.chans[d].cycled s.groups[g] := by
  obtain ⟨h1, -, h3, -, h5, h6, h7, h8⟩ := State.cycleStart_halves posts s
  have ck := (State.copyArmed_spec s).2 d g hg
  have hdeaf : deafToCommit s.chans d := ⟨fun m => (ht m).1, fun m => absurd m hf⟩
  rw [State.cycleStart_get]
  split
  · rw [State.supervise_deaf posts _ d g (deafToCommit_congr h7 hdeaf) (by rw [h7]; exact hg)]
    simp only [h3]
    rw [State.driveCycleStart_other _ _ _ (by rw [h6]; exact hf),
      Channel.atCycleStart_settled _ _ _ _ (by rw [h6]; exact fun m => (ht m).2)]
    have : s.copyArmed.groups[s.copyArmed.chans[d].config.group] = s.groups[g] := by subst hg; simp only [h1, h6]
    rw [this, ck]
    exact Channel.settled_worked _ _ _ rfl
  · rw [State.driveCycleStart_other _ _ _ (by rw [h8]; exact hf),
      Channel.atCycleStart_settled _ _ _ _ (by rw [h8]; exact fun m => (ht m).2)]
    have : (s.copyArmed.supervise posts).groups[(s.copyArmed.supervise posts).chans[d].config.group] =
        GroupRec.supervised s.groups[g] := by subst hg; simp only [h8]; exact h5 _
    rw [this, State.supervise_deaf posts _ d g (deafToCommit_congr h6 hdeaf) (by rw [h6]; exact hg), ck]
    simp only [h1]
    rfl

/-- R97: a ONESHOT channel with a CYCLE trigger at a cycle start: with no override it takes the trigger. -/
theorem State.cycleStart_cycleTrigger (posts : List Posting) (s : State) (d : Chan) (g : Group)
    (hg : s.chans[d].config.group = g) (hm : s.chans[d].config.mode = .oneshot)
    (ht : s.chans[d].config.trigger = some .cycle) (hs : s.groups[g].state ≠ .stopped)
    (hc : s.chans[d].calm s.groups[g]) (ho : s.chans[d].override = .none) :
    let p := s.chans[d].triggered (s.chans[d].copied s.groups[g]).active s.now
    (s.cycleStart posts).chans[d].shot = p.1 ∧ (s.cycleStart posts).chans[d].ignored = p.2 := by
  intro p
  obtain ⟨h1, hn, h3, hn', h5, h6, h7, h8⟩ := State.cycleStart_halves posts s
  have ck := (State.copyArmed_spec s).2 d g hg
  obtain ⟨q1, q2, q3, q4⟩ := Channel.copied_shot s.groups[g] s.chans[d]
  have hdeaf : deafToCommit s.chans d :=
    ⟨fun _ => by rw [ht]; simp, fun m => by rw [hm] at m; cases m⟩
  have hf : s.chans[d].config.mode ≠ .follow := by rw [hm]; simp
  have hcal : (s.chans[d].copied s.groups[g]).calm s.groups[g] := by
    unfold Channel.calm; rw [Channel.copied_config]; exact hc
  rw [State.cycleStart_get]
  split
  · rw [State.supervise_deaf posts _ d g (deafToCommit_congr h7 hdeaf) (by rw [h7]; exact hg)]
    simp only [h3]
    rw [State.driveCycleStart_other _ _ _ (by rw [h6]; exact hf), ck]
    simp only [h1, hn]
    have : ((s.chans[d].copied s.groups[g]).atCycleStart (s.chans[d].copied s.groups[g]) s.groups s.now).1 =
        { s.chans[d].copied s.groups[g] with shot := p.1, ignored := p.2 } := by
      unfold Channel.atCycleStart
      have hcf := Channel.copied_config s.groups[g] s.chans[d]
      rw [if_neg (by simp only [hcf]; subst hg; exact hs)]
      simp only [hcf, hm]
      rw [Channel.oneshotOn_free _ _ _ _ (by rw [hcf]; exact hm) (by rw [hcf]; exact ht)
        (by simp only [hcf]; subst hg; exact hs) (by rw [q3]; exact ho)]
      have : (s.chans[d].copied s.groups[g]).triggered (s.chans[d].copied s.groups[g]).active s.now = p := by
        unfold Channel.triggered; rw [q1, q2, hcf]; rfl
      simp only [this, hcf]
    rw [this, Channel.worked_shot _ _ _ _ hcal]
    exact ⟨rfl, rfl⟩
  · rw [State.driveCycleStart_other _ _ _ (by rw [h8]; exact hf)]
    have hw := State.supervise_deaf posts _ d g (deafToCommit_congr h6 hdeaf) (by rw [h6]; exact hg)
    rw [ck] at hw
    simp only [h1] at hw
    obtain ⟨w1, w2, -⟩ := Channel.worked_free _ _ hcal (by rw [q3]; exact ho)
    obtain ⟨w3, w4⟩ := Channel.worked_same_shot _ _ hcal
    have hcf := h8 d
    have hgs : (s.copyArmed.supervise posts).groups[(s.copyArmed.supervise posts).chans[d].config.group].state ≠ .stopped := by
      simp only [hcf]; subst hg; rw [h5]; exact mt (GroupRec.supervised_stopped _).mp hs
    unfold Channel.atCycleStart
    rw [if_neg hgs]
    simp only [hcf, hm]
    rw [Channel.oneshotOn_free _ _ _ _ (by rw [hcf]; exact hm) (by rw [hcf]; exact ht) hgs (by rw [hw]; exact w1), hn']
    have : (s.copyArmed.supervise posts).chans[d].triggered (s.copyArmed.supervise posts).chans[d].active s.now = p := by
      unfold Channel.triggered; rw [hcf, hw, w2, w3, w4, q1, q2]; rfl
    rw [this]
    exact ⟨rfl, rfl⟩

/-- The leader ends that a follower meets when the supervisor's work comes first: `b` is the state after it, `k`
the copy that the channels read. -/
theorem State.driveCycleStart_met (k b : State) (l f : Chan) (h : l < f)
    (hm : b.chans[f].config.mode = .follow) (hl : b.chans[f].config.leader = some l)
    (hlf : b.chans[l].config.mode ≠ .follow) (hll : b.chans[l].config.mode ≠ .level)
    (hs : ∀ d ∈ [l, f], b.groups[b.chans[d].config.group].state ≠ .stopped ∧ b.chans[d].override = .none)
    (ho : k.chans[l].override = .none) (ha : b.chans[l].active = k.chans[l].active) :
    (b.driveCycleStart k.chans).chans[f].shot =
      if b.chans[l].endsOn k.chans[l].active b.now then Shot.start b.chans[f].active b.now
      else b.chans[f].shot := by
  rw [State.driveCycleStart_follower k.chans b f l h hm hl hlf]
  have hend := Channel.atCycleStart_free k.chans[l] b.groups b.now b.chans[l] (hs l (by simp)).1 (hs l (by simp)).2
    ho ha hll
  have htk : b.chans[f].takes b.groups = true := (Channel.takes_iff _ _).mpr (hs f (by simp))
  rw [hend, htk]
  by_cases hE : b.chans[l].endsOn k.chans[l].active b.now = true
  · rw [if_pos hE, if_pos ⟨hE, rfl⟩]
  · rw [if_neg hE, if_neg (fun q => hE q.1)]

/-- R101 and R102: a follower at a cycle start, with a WIDTH leader or a ONESHOT leader that no COMMIT trigger
starts; no override on either, and no group of theirs stopped or falling with an action that makes one. -/
theorem State.cycleStart_follower (posts : List Posting) (s : State) (l f : Chan) (h : l < f)
    (hm : s.chans[f].config.mode = .follow) (hl : s.chans[f].config.leader = some l)
    (hlm : s.chans[l].config.mode = .width ∨
      (s.chans[l].config.mode = .oneshot ∧ s.chans[l].config.trigger ≠ some .commit))
    (hs : ∀ d ∈ [l, f], s.groups[s.chans[d].config.group].state ≠ .stopped ∧
      s.chans[d].calm s.groups[s.chans[d].config.group] ∧ s.chans[d].override = .none) :
    (s.cycleStart posts).chans[f].shot =
      if s.chans[l].endsOn (s.chans[l].copied s.groups[s.chans[l].config.group]).active s.now then
        Shot.start (s.chans[f].copied s.groups[s.chans[f].config.group]).active s.now
      else s.chans[f].shot := by
  obtain ⟨h1, hn, h3, hn', h5, h6, h7, h8⟩ := State.cycleStart_halves posts s
  have cl := (State.copyArmed_spec s).2 l _ rfl
  have cf := (State.copyArmed_spec s).2 f _ rfl
  obtain ⟨sl1, sl2, sl3⟩ := hs l (by simp)
  obtain ⟨sf1, sf2, sf3⟩ := hs f (by simp)
  have hlf : s.chans[l].config.mode ≠ .follow := by
    rcases hlm with k | k
    · rw [k]; decide
    · rw [k.1]; decide
  have hll : s.chans[l].config.mode ≠ .level := by
    rcases hlm with k | k
    · rw [k]; decide
    · rw [k.1]; decide
  have dl : deafToCommit s.chans l := by
    refine ⟨fun m => ?_, fun m => absurd m hlf⟩
    rcases hlm with k | k
    · rw [k] at m; cases m
    · exact k.2
  have df : deafToCommit s.chans f := by
    refine ⟨fun m => (by rw [hm] at m; cases m), fun _ l' hl' => ?_⟩
    rw [hl] at hl'
    cases hl'
    exact ⟨hlf, dl.1⟩
  obtain ⟨pl1, pl2, pl3, pl4⟩ := Channel.copied_shot s.groups[s.chans[l].config.group] s.chans[l]
  obtain ⟨pf1, pf2, pf3, pf4⟩ := Channel.copied_shot s.groups[s.chans[f].config.group] s.chans[f]
  have kl : (s.chans[l].copied s.groups[s.chans[l].config.group]).calm s.groups[s.chans[l].config.group] := by
    unfold Channel.calm; rw [Channel.copied_config]; exact sl2
  have kf : (s.chans[f].copied s.groups[s.chans[f].config.group]).calm s.groups[s.chans[f].config.group] := by
    unfold Channel.calm; rw [Channel.copied_config]; exact sf2
  have ends_congr (c c' : Channel) (a : Active) (n : Time) (q : c'.config = c.config) (q2 : c'.shot = c.shot)
      (q3 : c'.phase = c.phase) : c'.endsOn a n = c.endsOn a n := by
    unfold Channel.endsOn; rw [q, q2, q3]
  rw [State.cycleStart_get]
  split
  · rw [State.supervise_deaf posts _ f s.chans[f].config.group (deafToCommit_congr h7 df) (by rw [h7])]
    simp only [h3]
    have key := State.driveCycleStart_met s.copyArmed s.copyArmed l f h (by rw [h6]; exact hm)
      (by rw [h6]; exact hl) (by rw [h6]; exact hlf) (by rw [h6]; exact hll) ?_ (by rw [cl, pl3]; exact sl3) rfl
    · have hcal : ((s.copyArmed.driveCycleStart s.copyArmed.chans).chans[f]).calm
          s.groups[s.chans[f].config.group] := by unfold Channel.calm; rw [h7]; exact sf2
      rw [(Channel.worked_same_shot _ _ hcal).1, key, ends_congr s.chans[l] s.copyArmed.chans[l] _ _ (h6 l)
        (by rw [cl]; exact pl1) (by rw [cl]; exact pl4), cl, cf, hn, pf1]
    · intro d hd
      rcases List.mem_pair.mp hd with rfl | rfl
      · exact ⟨by simp only [h6, h1]; exact sl1, by rw [cl, pl3]; exact sl3⟩
      · exact ⟨by simp only [h6, h1]; exact sf1, by rw [cf, pf3]; exact sf3⟩
  · have wl := State.supervise_deaf posts _ l s.chans[l].config.group (deafToCommit_congr h6 dl) (by rw [h6])
    have wf := State.supervise_deaf posts _ f s.chans[f].config.group (deafToCommit_congr h6 df) (by rw [h6])
    simp only [h1] at wl wf
    rw [cl] at wl
    rw [cf] at wf
    generalize s.copyArmed.supervise posts = b at *
    generalize s.copyArmed = k at *
    obtain ⟨al1, al2, al3⟩ := Channel.worked_free _ _ kl (by rw [pl3]; exact sl3)
    obtain ⟨af1, af2, af3⟩ := Channel.worked_free _ _ kf (by rw [pf3]; exact sf3)
    have ns (g : Group) (q : s.groups[g].state ≠ .stopped) : b.groups[g].state ≠ .stopped := by
      rw [h5]; exact mt (GroupRec.supervised_stopped _).mp q
    have key := State.driveCycleStart_met k b l f h (by rw [h8]; exact hm) (by rw [h8]; exact hl)
      (by rw [h8]; exact hlf) (by rw [h8]; exact hll) ?_ (by rw [cl, pl3]; exact sl3) (by rw [wl, cl, al2])
    · rw [key, ends_congr s.chans[l] b.chans[l] _ _ (h8 l) (by rw [wl, (Channel.worked_same_shot _ _ kl).1]; exact pl1)
        (by rw [wl, al3]; exact pl4), cl, hn', wf, af2, (Channel.worked_same_shot _ _ kf).1, pf1]
    · intro d hd
      rcases List.mem_pair.mp hd with rfl | rfl
      · exact ⟨by simp only [h8]; exact ns _ sl1, by rw [wl]; exact al1⟩
      · exact ⟨by simp only [h8]; exact ns _ sf1, by rw [wf]; exact af1⟩

/-! ### AUTO commits and their triggers -/

/-- R67 and R70: an AUTO commit request at a ONESHOT channel. -/
theorem State.requestAuto_oneshot (g : Group) (s : State) (d : Chan) (hm : s.chans[d].config.mode = .oneshot) :
    (s.requestCommit .auto g).chans[d] =
      if s.chans[d].config.group = g then
        if s.groups[g].accepts .auto then (s.chans[d].commit.oneshotOn .commit s.groups s.now).1 else s.chans[d]
      else s.chans[d] := by
  rw [State.requestAuto_eq]
  by_cases hacc : s.groups[g].accepts .auto = true
  · rw [if_pos hacc, if_pos hacc]
    unfold State.triggerCommit
    rw [State.drive_get]
    rw [State.mapGroupChans_get g (fun c => c.commit) s d]
    by_cases hg : s.chans[d].config.group = g
    · simp only [if_pos hg]
      rw [if_pos (by rw [Channel.commit_config]; exact hg)]
      obtain ⟨_, _, q⟩ := Channel.oneshotOn_eq .commit s.groups s.now s.chans[d].commit
      exact Channel.led_of_not_follow (by
        show (Channel.oneshotOn .commit s.groups s.now s.chans[d].commit).1.config.mode ≠ .follow
        rw [q]; dsimp only; rw [Channel.commit_config, hm]; decide)
    · simp only [if_neg hg]
      exact Channel.led_of_not_follow (by rw [hm]; decide)
  · rw [if_neg hacc, if_neg hacc, ite_self]

/-- R70 and R108 at a ONESHOT channel with a COMMIT trigger, in a group that accepts the AUTO commit and does not
fall, with no override: the channel takes the trigger. -/
theorem Supervised.group_oneshot (n : Nat) (a : Supervised) (g : Group) (d : Chan)
    (hm : a.state.chans[d].config.mode = .oneshot) (ht : a.state.chans[d].config.trigger = some .commit)
    (hg : a.state.chans[d].config.group = g) (hacc : a.state.groups[g].accepts .auto = true)
    (hf : GroupRec.holdExpires a.state.groups[g] = false) (ho : a.state.chans[d].override = .none) :
    let c := a.state.chans[d]
    let p := c.triggered c.active a.state.now
    (Supervised.group n a g).state.chans[d] = { c.worked a.state.groups[g] with shot := p.1, ignored := p.2 } := by
  intro c p
  have hst : a.state.groups[g].state ≠ .stopped := by
    intro k; unfold GroupRec.accepts at hacc; rw [k] at hacc; simp [GroupState.commits, GroupState.discards] at hacc
  have taken (c' : Channel) (gs : Vector GroupRec 4) (h1 : c'.config = c.config) (h2 : c'.shot = c.shot)
      (h3 : c'.ignored = c.ignored) (h4 : c'.active = c.active) (h5 : c'.override = .none)
      (h6 : gs[g].state ≠ .stopped) : (c'.oneshotOn .commit gs a.state.now).1 =
        { c' with shot := p.1, ignored := p.2 } := by
    rw [Channel.oneshotOn_free _ _ _ _ (by rw [h1]; exact hm) (by rw [h1]; exact ht)
      (by simp only [h1]; subst hg; exact h6) h5]
    have : c'.triggered c'.active a.state.now = p := by
      unfold Channel.triggered; rw [h1, h2, h3, h4]; rfl
    rw [this]
  have hcm : c.commit.shot = c.shot ∧ c.commit.ignored = c.ignored ∧ c.commit.active = c.active ∧
      c.commit.override = c.override := by
    unfold Channel.commit; split <;> exact ⟨rfl, rfl, rfl, rfl⟩
  have hau : c.commit = c.autoed a.state.groups[g] := by unfold Channel.autoed; rw [if_pos hacc]
  unfold Supervised.group
  split
  · obtain ⟨-, c2⟩ := Supervised.check_spec g (a.auto g)
    obtain ⟨a1, -⟩ := State.requestAuto_spec g a.state
    have h := State.requestAuto_oneshot g a.state d hm
    rw [if_pos hg, if_pos hacc, taken _ _ c.commit_config hcm.1 hcm.2.1 hcm.2.2.1 (by rw [hcm.2.2.2]; exact ho) hst] at h
    have hgr : (a.state.requestCommit .auto g).groups = a.state.groups := by rw [a1]
    rw [c2]
    show (if (a.state.requestCommit .auto g).chans[d].config.group = g then
      Channel.supervised (a.state.requestCommit .auto g).groups[g] (a.state.requestCommit .auto g).chans[d] else
        (a.state.requestCommit .auto g).chans[d]) = _
    rw [h]; simp only [hgr]
    rw [if_pos (by rw [c.commit_config]; exact hg), hau]
    unfold Channel.worked Channel.supervised
    rw [hf]
    cases a.state.groups[g].endPending <;> (split <;> rfl)
  · obtain ⟨c1, c2⟩ := Supervised.check_spec g a
    have hk : (a.check g).state.chans[d] = Channel.supervised a.state.groups[g] c := by rw [c2, if_pos hg]
    have hcfg : (a.check g).state.chans[d].config = c.config := by rw [hk, Channel.supervised_config]
    have hgr : (a.check g).state.groups[g] = GroupRec.supervised a.state.groups[g] := by
      have : (a.check g).state.groups = a.state.groups.set g (GroupRec.supervised a.state.groups[g]) := by rw [c1]
      simp only [this]; rw [set_get, if_pos rfl]
    have hnow : (a.check g).state.now = a.state.now := by rw [c1]
    have hacc' : (GroupRec.supervised a.state.groups[g]).accepts .auto = true := by
      unfold GroupRec.supervised
      rw [hf]
      by_cases k : a.state.groups[g].state ≠ .run
      · rw [if_pos k]; exact hacc
      · rw [if_neg k]; cases a.state.groups[g].endPending <;> exact hacc
    have h := State.requestAuto_oneshot g (a.check g).state d (by rw [hcfg]; exact hm)
    show ((a.check g).state.requestCommit .auto g).chans[d] = _
    have hsup : ∃ o, (Channel.supervised a.state.groups[g] c) = { c with override := o } ∧ o = .none := by
      unfold Channel.supervised
      rw [hf]
      by_cases k : a.state.groups[g].state ≠ .run
      · rw [if_pos k]; exact ⟨_, rfl, ho⟩
      · rw [if_neg k]; cases a.state.groups[g].endPending
        · exact ⟨_, rfl, ho⟩
        · exact ⟨_, rfl, rfl⟩
    obtain ⟨o, hsup, ho'⟩ := hsup
    have hw := Channel.autoed_supervised a.state.groups[g] c
    unfold Channel.autoed at hw
    rw [if_pos hacc'] at hw
    rw [h, if_pos (by rw [hcfg]; exact hg), hgr, if_pos hacc', hnow, hk]
    have hc2 : (Channel.supervised a.state.groups[g] c).commit.shot = c.shot ∧
        (Channel.supervised a.state.groups[g] c).commit.ignored = c.ignored ∧
        (Channel.supervised a.state.groups[g] c).commit.active = c.active ∧
        (Channel.supervised a.state.groups[g] c).commit.override = .none := by
      rw [hsup]; unfold Channel.commit; split <;> exact ⟨rfl, rfl, rfl, ho'⟩
    rw [taken _ _ (by rw [Channel.commit_config, Channel.supervised_config]) hc2.1 hc2.2.1 hc2.2.2.1 hc2.2.2.2
      (by rw [hgr]; exact mt (GroupRec.supervised_stopped _).mp hst), hw]

/-- The work on another group does not touch a ONESHOT channel. -/
theorem Supervised.group_other (n : Nat) (a : Supervised) (h : Group) (d : Chan)
    (hm : a.state.chans[d].config.mode = .oneshot) (hg : a.state.chans[d].config.group ≠ h) :
    (Supervised.group n a h).state.chans[d] = a.state.chans[d] := by
  unfold Supervised.group
  split
  · obtain ⟨-, c2⟩ := Supervised.check_spec h (a.auto h)
    have e := State.requestAuto_oneshot h a.state d hm
    rw [if_neg hg] at e
    rw [c2]
    show (if (a.state.requestCommit .auto h).chans[d].config.group = h then _ else
        (a.state.requestCommit .auto h).chans[d]) = _
    rw [e, if_neg hg]
  · obtain ⟨-, c2⟩ := Supervised.check_spec h a
    have hk : (a.check h).state.chans[d] = a.state.chans[d] := by rw [c2, if_neg hg]
    have e := State.requestAuto_oneshot h (a.check h).state d (by rw [hk]; exact hm)
    show ((a.check h).state.requestCommit .auto h).chans[d] = _
    rw [e, hk, if_neg hg]

theorem Supervised.fold_oneshot (n : Nat) (L : List Group) (hL : L.Nodup) (a : Supervised) (d : Chan) (g : Group)
    (hm : a.state.chans[d].config.mode = .oneshot) (ht : a.state.chans[d].config.trigger = some .commit)
    (hg : a.state.chans[d].config.group = g) (hacc : a.state.groups[g].accepts .auto = true)
    (hf : GroupRec.holdExpires a.state.groups[g] = false) (ho : a.state.chans[d].override = .none) :
    let c := a.state.chans[d]
    let p := c.triggered c.active a.state.now
    (L.foldl (Supervised.group n) a).state.chans[d] =
      if g ∈ L then { c.worked a.state.groups[g] with shot := p.1, ignored := p.2 } else c := by
  induction L generalizing a with
  | nil => rfl
  | cons h L ih =>
    intro c p
    obtain ⟨hh, hL⟩ := List.nodup_cons.mp hL
    rw [List.foldl_cons]
    obtain ⟨g1, -⟩ := Supervised.group_spec n a h
    have ug : (Supervised.group n a h).state.groups[g] = if h = g then GroupRec.supervised a.state.groups[h] else a.state.groups[g] := by
      have : (Supervised.group n a h).state.groups[g] = (a.state.groups.set h (GroupRec.supervised a.state.groups[h]))[g] := by rw [g1]
      rw [this, set_get]
    have hn : (Supervised.group n a h).state.now = a.state.now := by rw [g1]
    by_cases k : h = g
    · subst k
      have e := Supervised.group_oneshot n a h d hm ht hg hacc hf ho
      have hcfg := Supervised.fold_config n [h] a d
      have rest : ∀ (M : List Group) (b : Supervised), h ∉ M → b.state.chans[d].config.mode = .oneshot →
          b.state.chans[d].config.group = h → (M.foldl (Supervised.group n) b).state.chans[d] = b.state.chans[d] := by
        intro M
        induction M with
        | nil => exact fun _ _ _ _ => rfl
        | cons x M ihM =>
          intro b hx b1 b2
          obtain ⟨x1, x2⟩ := not_or.mp (mt List.mem_cons.mpr hx)
          have := Supervised.group_other n b x d b1 (by rw [b2]; exact x1)
          rw [List.foldl_cons, ihM _ x2 (by rw [this]; exact b1) (by rw [this]; exact b2), this]
      rw [if_pos List.mem_cons_self, rest L _ hh (by rw [e]; exact (congrArg ChanConfig.mode (Channel.worked_config _ _)).trans hm)
        (by rw [e]; exact (congrArg ChanConfig.group (Channel.worked_config _ _)).trans hg), e]
    · have e := Supervised.group_other n a h d hm (by rw [hg]; exact Ne.symm k)
      have := ih hL (Supervised.group n a h) (by rw [e]; exact hm) (by rw [e]; exact ht) (by rw [e]; exact hg)
        (by rw [ug, if_neg k]; exact hacc) (by rw [ug, if_neg k]; exact hf) (by rw [e]; exact ho)
      rw [this, ug, if_neg k, hn, e]
      exact if_congr ⟨fun m => List.mem_cons_of_mem _ m, fun m => (List.mem_cons.mp m).resolve_left (Ne.symm k)⟩ rfl rfl

/-- R67, R70 and R97: a ONESHOT channel with a COMMIT trigger at a cycle start: with no override, in a group that
accepts the AUTO commit and does not fall, it takes the trigger. -/
theorem State.cycleStart_autoTrigger (posts : List Posting) (s : State) (d : Chan) (g : Group)
    (hg : s.chans[d].config.group = g) (hm : s.chans[d].config.mode = .oneshot)
    (ht : s.chans[d].config.trigger = some .commit) (hacc : s.groups[g].accepts .auto = true)
    (hf : GroupRec.holdExpires s.groups[g] = false) (ho : s.chans[d].override = .none) :
    let p := s.chans[d].triggered (s.chans[d].copied s.groups[g]).active s.now
    (s.cycleStart posts).chans[d].shot = p.1 ∧ (s.cycleStart posts).chans[d].ignored = p.2 := by
  intro p
  obtain ⟨h1, hn, h3, hn', h5, h6, h7, h8⟩ := State.cycleStart_halves posts s
  have ck := (State.copyArmed_spec s).2 d g hg
  obtain ⟨q1, q2, q3, q4⟩ := Channel.copied_shot s.groups[g] s.chans[d]
  have hfol : s.chans[d].config.mode ≠ .follow := by rw [hm]; decide
  have hset (live : Channel) (gs : Vector GroupRec 4) (now : Time) (c : Channel) (hc : c.config = s.chans[d].config) :
      (c.atCycleStart live gs now).1 = c := by
    rw [Channel.atCycleStart_settled _ _ _ _ (by rw [hc, ht]; intro _; decide)]
    unfold Channel.settled
    simp only [hc, hm]
    exact ite_self _
  have key (u : State) (hu : u.chans[d] = s.chans[d].copied s.groups[g]) (hug : u.groups = s.groups)
      (hun : u.now = s.now) : (u.supervise posts).chans[d] =
        { (s.chans[d].copied s.groups[g]).worked s.groups[g] with shot := p.1, ignored := p.2 } := by
    have hcf := Channel.copied_config s.groups[g] s.chans[d]
    have h := Supervised.fold_oneshot u.draws allGroups (by decide) ⟨u, [], []⟩ d g (by dsimp only; rw [hu, hcf]; exact hm)
      (by dsimp only; rw [hu, hcf]; exact ht) (by dsimp only; rw [hu, hcf]; exact hg) (by simp only [hug]; exact hacc)
      (by simp only [hug]; exact hf) (by dsimp only; rw [hu, q3]; exact ho)
    dsimp only at h
    rw [if_pos (mem_allGroups g)] at h
    have e : (u.supervise posts).chans = (allGroups.foldl (Supervised.group u.draws) ⟨u, [], []⟩).state.chans := by
      unfold State.supervise State.postBoth
      dsimp only
      rw [State.postAll_events]; rfl
    simp only [e]
    rw [h]
    have hp : (s.chans[d].copied s.groups[g]).triggered (s.chans[d].copied s.groups[g]).active s.now = p := by
      unfold Channel.triggered; rw [q1, q2, hcf]; rfl
    simp only [hug, hun]
    rw [hu, hp]
  rw [State.cycleStart_get]
  split
  · have hk : (s.copyArmed.driveCycleStart s.copyArmed.chans).chans[d] = s.chans[d].copied s.groups[g] := by
      rw [State.driveCycleStart_other _ _ _ (by rw [h6]; exact hfol), hset _ _ _ _ (h6 d), ck]
    have hnow : (s.copyArmed.driveCycleStart s.copyArmed.chans).now = s.now := rfl
    rw [key _ hk h3 hnow]
    exact ⟨rfl, rfl⟩
  · have hw := key s.copyArmed ck h1 hn
    rw [State.driveCycleStart_other _ _ _ (by rw [h8]; exact hfol), hset _ _ _ _ (h8 d), hw]
    exact ⟨rfl, rfl⟩

end Sys2Proof.Machine
end

