-- ==== Sys2Proof/Laws/CycleBarred.lean ====
section
/-!
SUPPORT. The channels whose shots a cycle start does not start (R69, R70, R93, R99, R102, R112): those of a
STOPPED group, those under an override that stays, those that fall back, and those whose trigger does not come.
-/

namespace Sys2Proof.Machine

/-- R97 and R102: a channel that takes no trigger and no leader end. -/
def Channel.barred (r : GroupRec) (c : Channel) : Prop := r.state = .stopped ∨ c.override ≠ .none

/-- The channel keeps its override at a cycle start. -/
def Channel.still (r : GroupRec) : Prop := GroupRec.holdExpires r = false ∧ ¬(r.state = .run ∧ r.endPending = true)

/-- Shot and ignored-trigger count are the same. -/
def Channel.sameShot (a b : Channel) : Prop := b.shot = a.shot ∧ b.ignored = a.ignored

theorem Channel.sameShot.trans {a b c : Channel} (h : a.sameShot b) (k : b.sameShot c) : a.sameShot c :=
  ⟨k.1.trans h.1, k.2.trans h.2⟩

theorem Channel.led_barred (now : Time) (gs : Vector GroupRec 4) (E : List Chan) (c : Channel)
    (h : c.barred gs[c.config.group]) : c.led now gs E = c := by
  unfold Channel.led
  have : c.takes gs = false := by
    rw [Bool.eq_false_iff]; intro k
    obtain ⟨k1, k2⟩ := (Channel.takes_iff _ _).mp k
    exact h.elim k1 (fun q => q k2)
  rw [this, Bool.and_false]; rfl

theorem Channel.autoed_shot (r : GroupRec) (c : Channel) :
    c.sameShot (c.autoed r) ∧ (c.autoed r).override = c.override := by
  unfold Channel.autoed Channel.commit; (repeat' split) <;> exact ⟨⟨rfl, rfl⟩, rfl⟩

/-- R70: an AUTO commit request keeps the shot of a channel that takes no trigger. -/
theorem State.requestAuto_barred (g : Group) (s : State) (d : Chan)
    (hb : s.chans[d].barred s.groups[s.chans[d].config.group]) :
    s.chans[d].sameShot (s.requestCommit .auto g).chans[d] := by
  rw [State.requestAuto_eq]
  split
  · have hm := State.mapGroupChans_get g (fun c => c.commit) s d
    have hc : (s.mapGroupChans g fun c => c.commit).chans[d] = s.chans[d] ∨
        (s.mapGroupChans g fun c => c.commit).chans[d] = s.chans[d].commit := by
      rw [hm]; split <;> simp
    have ho : s.chans[d].commit.override = s.chans[d].override ∧ s.chans[d].sameShot s.chans[d].commit := by
      unfold Channel.commit; split <;> exact ⟨rfl, rfl, rfl⟩
    have hu : (s.mapGroupChans g fun c => c.commit).groups = s.groups := rfl
    generalize s.mapGroupChans g (fun c => c.commit) = u at hc hu
    have hcfg : u.chans[d].config = s.chans[d].config := by
      rcases hc with e | e <;> rw [e]
      exact Channel.commit_config _
    have hbu : u.chans[d].barred u.groups[u.chans[d].config.group] := by
      simp only [hcfg, hu]
      rcases hc with e | e
      · exact hb.imp id (fun q => by rw [e]; exact q)
      · exact hb.imp id (fun q => by rw [e, ho.1]; exact q)
    unfold State.triggerCommit
    rw [State.drive_get, Channel.oneshotOn_barred _ _ _ _ hbu, ite_self, Channel.led_barred _ _ _ _ hbu]
    rcases hc with e | e <;> rw [e]
    · exact ⟨rfl, rfl⟩
    · exact ho.2
  · exact ⟨rfl, rfl⟩

/-- R82: the drive channels' own part keeps it too. -/
theorem State.driveCycleStart_barred (live : Vector Channel 6) (s : State) (d : Chan)
    (hb : s.chans[d].barred s.groups[s.chans[d].config.group]) :
    s.chans[d].sameShot (s.driveCycleStart live).chans[d] := by
  unfold State.driveCycleStart
  rw [State.drive_get]
  have h : s.chans[d].sameShot (s.chans[d].atCycleStart live[d] s.groups s.now).1 ∧
      (s.chans[d].atCycleStart live[d] s.groups s.now).1.override = s.chans[d].override := by
    unfold Channel.atCycleStart
    split
    · exact ⟨⟨rfl, rfl⟩, rfl⟩
    · cases s.chans[d].config.mode
      · exact ⟨⟨rfl, rfl⟩, rfl⟩
      · exact ⟨⟨rfl, rfl⟩, rfl⟩
      · exact ⟨⟨rfl, rfl⟩, rfl⟩
      · dsimp only; rw [Channel.oneshotOn_barred _ _ _ _ hb]; exact ⟨⟨rfl, rfl⟩, rfl⟩
      · exact ⟨⟨rfl, rfl⟩, rfl⟩
  rw [Channel.led_barred]
  · exact h.1
  · simp only [Channel.atCycleStart_config]
    exact hb.imp id (fun q => by rw [h.2]; exact q)

/-- R108 and R115 at a channel of a STOPPED group, or whose group keeps its overrides. -/
theorem Channel.supervised_still (r : GroupRec) (c : Channel) (h : r.state = .stopped ∨ Channel.still r) :
    Channel.supervised r c = c := by
  unfold Channel.supervised
  by_cases k : r.state ≠ .run
  · rw [if_pos k]
  · rw [if_neg k]
    rcases h with h | h
    · rw [h] at k; exact absurd (by decide) k
    · have : r.endPending ≠ true := fun q => h.2 ⟨not_not.mp k, q⟩
      rw [h.1]; simp [this]

/-- What the work on one group leaves of a channel, by what a request and the check leave. -/
theorem Supervised.group_cases (n : Nat) (a : Supervised) (h : Group) :
    Supervised.group n a h = (a.auto h).check h ∨ Supervised.group n a h = (a.check h).auto h := by
  unfold Supervised.group; split <;> simp

theorem Supervised.group_config (n : Nat) (a : Supervised) (h : Group) (d : Chan) :
    (Supervised.group n a h).state.chans[d].config = a.state.chans[d].config := Supervised.fold_config n [h] a d

theorem Supervised.group_groups (n : Nat) (a : Supervised) (h g : Group) :
    (Supervised.group n a h).state.groups[g] =
      if h = g then GroupRec.supervised a.state.groups[g] else a.state.groups[g] := by
  obtain ⟨g1, -⟩ := Supervised.group_spec n a h
  have : (Supervised.group n a h).state.groups[g] = (a.state.groups.set h (GroupRec.supervised a.state.groups[h]))[g] := by rw [g1]
  rw [this, set_get]
  split
  · rename_i k; subst k; rfl
  · rfl

/-- The request's half of the work. -/
theorem Supervised.auto_spec (a : Supervised) (h : Group) (d : Chan) :
    (a.auto h).state.chans[d] = (a.state.requestCommit .auto h).chans[d] ∧ (a.auto h).state.groups = a.state.groups ∧
    (a.auto h).state.chans[d].config = a.state.chans[d].config ∧
    (a.auto h).state.chans[d].override = a.state.chans[d].override := by
  obtain ⟨a1, a2⟩ := State.requestAuto_spec h a.state
  have e : (a.auto h).state = a.state.requestCommit .auto h := rfl
  rw [e]
  refine ⟨rfl, by rw [a1], ?_, ?_⟩
  · rw [(a2 d).config]; split
    · exact Channel.autoed_config _ _
    · rfl
  · rw [(a2 d).override]; split
    · exact (Channel.autoed_shot _ _).2
    · rfl

/-- The check's half of the work. -/
theorem Supervised.check_get (a : Supervised) (h : Group) (d : Chan) (g : Group) :
    ((a.check h).state.chans[d] = if a.state.chans[d].config.group = h then
      Channel.supervised a.state.groups[h] a.state.chans[d] else a.state.chans[d]) ∧
    ((a.check h).state.groups[g] = if h = g then GroupRec.supervised a.state.groups[g] else a.state.groups[g]) ∧
    (a.check h).state.chans[d].config = a.state.chans[d].config := by
  obtain ⟨c1, c2⟩ := Supervised.check_spec h a
  refine ⟨c2 d, ?_, ?_⟩
  · have : (a.check h).state.groups[g] = (a.state.groups.set h (GroupRec.supervised a.state.groups[h]))[g] := by rw [c1]
    rw [this, set_get]
    split
    · rename_i k; subst k; rfl
    · rfl
  · rw [c2]; split
    · exact Channel.supervised_config _ _
    · rfl

/-- The work on one group keeps the shot, the override and the bar of a channel that takes no trigger. -/
theorem Supervised.group_barred (n : Nat) (a : Supervised) (h g : Group) (d : Chan)
    (hg : a.state.chans[d].config.group = g)
    (hb : a.state.groups[g].state = .stopped ∨ (a.state.chans[d].override ≠ .none ∧
      (h = g → Channel.still a.state.groups[g]))) :
    a.state.chans[d].sameShot (Supervised.group n a h).state.chans[d] ∧
    (Supervised.group n a h).state.chans[d].override = a.state.chans[d].override := by
  have hb' : a.state.chans[d].barred a.state.groups[a.state.chans[d].config.group] := by
    subst hg; exact hb.imp id And.left
  have hsup : h = g → ∀ c, Channel.supervised a.state.groups[h] c = c := by
    rintro rfl c
    exact Channel.supervised_still _ _ (hb.imp id (fun q => q.2 rfl))
  rcases Supervised.group_cases n a h with e | e <;> rw [e]
  · obtain ⟨s1, s2, s3, s4⟩ := Supervised.auto_spec a h d
    obtain ⟨k1, -, -⟩ := Supervised.check_get (a.auto h) h d g
    have : ((a.auto h).check h).state.chans[d] = (a.auto h).state.chans[d] := by
      rw [k1]; split
      · rename_i q
        simp only [s2]
        exact hsup (by rw [← hg, ← s3]; exact q.symm) _
      · rfl
    rw [this]
    exact ⟨by rw [s1]; exact State.requestAuto_barred h a.state d hb', s4⟩
  · obtain ⟨s1, -, -, s4⟩ := Supervised.auto_spec (a.check h) h d
    obtain ⟨k1, k2, k3⟩ := Supervised.check_get a h d g
    have hk : (a.check h).state.chans[d] = a.state.chans[d] := by
      rw [k1]; split
      · rename_i q
        exact hsup (by rw [← hg]; exact q.symm) _
      · rfl
    rw [s4, s1]
    refine ⟨?_, by rw [hk]⟩
    have := State.requestAuto_barred h (a.check h).state d (by
      simp only [k3, hg, k2]
      rw [hk]
      refine hb.imp (fun q => ?_) And.left
      split
      · exact (GroupRec.supervised_stopped _).mpr q
      · exact q)
    rw [hk] at this
    exact this

theorem Supervised.fold_barred (n : Nat) (L : List Group) (hL : L.Nodup) (a : Supervised) (g : Group) (d : Chan)
    (hg : a.state.chans[d].config.group = g)
    (hb : a.state.groups[g].state = .stopped ∨ (a.state.chans[d].override ≠ .none ∧
      (g ∈ L → Channel.still a.state.groups[g]))) :
    a.state.chans[d].sameShot (L.foldl (Supervised.group n) a).state.chans[d] ∧
    (L.foldl (Supervised.group n) a).state.chans[d].override = a.state.chans[d].override := by
  induction L generalizing a with
  | nil => exact ⟨⟨rfl, rfl⟩, rfl⟩
  | cons h L ih =>
    obtain ⟨hh, hL⟩ := List.nodup_cons.mp hL
    obtain ⟨b1, b2⟩ := Supervised.group_barred n a h g d hg
      (hb.imp id (fun q => ⟨q.1, fun k => q.2 (by rw [k]; exact List.mem_cons_self)⟩))
    rw [List.foldl_cons]
    obtain ⟨i1, i2⟩ := ih hL (Supervised.group n a h) (by rw [Supervised.group_config]; exact hg) (by
      rw [Supervised.group_groups, b2]
      rcases hb with q | q
      · left; split
        · exact (GroupRec.supervised_stopped _).mpr q
        · exact q
      · right
        refine ⟨q.1, fun k => ?_⟩
        rw [if_neg (by rintro rfl; exact hh k)]
        exact q.2 (List.mem_cons_of_mem _ k))
    exact ⟨b1.trans i1, i2.trans b2⟩

/-- R108, R111 and R112: a channel of a group that falls back for HOLD, with IDLE or ACTIVE, has no shot after the
work on the groups, and is under an override. -/
theorem Supervised.fold_fallen (n : Nat) (L : List Group) (hL : L.Nodup) (a : Supervised) (g : Group) (d : Chan)
    (hg : a.state.chans[d].config.group = g) (hin : g ∈ L) (hf : GroupRec.holdExpires a.state.groups[g] = true)
    (ha : a.state.chans[d].config.action ≠ .hold) :
    (L.foldl (Supervised.group n) a).state.chans[d].shot = .idle ∧
    (L.foldl (Supervised.group n) a).state.chans[d].override ≠ .none := by
  induction L generalizing a with
  | nil => cases hin
  | cons h L ih =>
    obtain ⟨hh, hL⟩ := List.nodup_cons.mp hL
    rw [List.foldl_cons]
    by_cases k : h = g
    · subst k
      have fall (c : Channel) (hc : c.config.action ≠ .hold) (r : GroupRec) (hr : GroupRec.holdExpires r = true) :
          (Channel.supervised r c).shot = .idle ∧ (Channel.supervised r c).override ≠ .none := by
        have hst : r.state = .run := (of_decide_eq_true hr).1
        unfold Channel.supervised
        rw [if_neg (not_not.mpr hst), hr]
        cases r.endPending <;> (dsimp only; unfold Channel.enterFallback; cases hh : c.config.action) <;>
          simp_all
      have done : (Supervised.group n a h).state.chans[d].shot = .idle ∧
          (Supervised.group n a h).state.chans[d].override ≠ .none := by
        rcases Supervised.group_cases n a h with e | e <;> rw [e]
        · obtain ⟨s1, s2, s3, s4⟩ := Supervised.auto_spec a h d
          obtain ⟨k1, -, -⟩ := Supervised.check_get (a.auto h) h d h
          rw [k1, if_pos (by rw [s3]; exact hg)]
          simp only [s2]
          exact fall _ (by rw [s3]; exact ha) _ hf
        · obtain ⟨s1, -, -, s4⟩ := Supervised.auto_spec (a.check h) h d
          obtain ⟨k1, k2, k3⟩ := Supervised.check_get a h d h
          rw [if_pos hg] at k1
          obtain ⟨f1, f2⟩ := fall a.state.chans[d] ha _ hf
          rw [s4, s1, k1]
          have := State.requestAuto_barred h (a.check h).state d (Or.inr (by rw [k1]; exact f2))
          exact ⟨by rw [this.1, k1]; exact f1, f2⟩
      obtain ⟨b1, b2⟩ := Supervised.fold_barred n L hL (Supervised.group n a h) h d
        (by rw [Supervised.group_config]; exact hg) (Or.inr ⟨done.2, fun q => absurd q hh⟩)
      exact ⟨by rw [b1.1]; exact done.1, by rw [b2]; exact done.2⟩
    · refine ih hL _ (by rw [Supervised.group_config]; exact hg)
        ((List.mem_cons.mp hin).resolve_left (Ne.symm k)) ?_ (by rw [Supervised.group_config]; exact ha)
      rw [Supervised.group_groups, if_neg k]; exact hf

/-- R66, R70: where the group does not accept the AUTO commit, a ONESHOT channel that does not fall back keeps its
shot. -/
theorem Supervised.fold_refused (n : Nat) (L : List Group) (a : Supervised) (g : Group) (d : Chan)
    (hm : a.state.chans[d].config.mode = .oneshot) (hg : a.state.chans[d].config.group = g)
    (hacc : a.state.groups[g].accepts .auto = false) (hc : a.state.chans[d].calm a.state.groups[g]) (hL : L.Nodup) :
    a.state.chans[d].sameShot (L.foldl (Supervised.group n) a).state.chans[d] := by
  induction L generalizing a with
  | nil => exact ⟨rfl, rfl⟩
  | cons h L ih =>
    obtain ⟨hh, hL⟩ := List.nodup_cons.mp hL
    rw [List.foldl_cons]
    by_cases k : h = g
    · subst k
      have worked := Channel.worked_same_shot _ _ hc
      have e : (Supervised.group n a h).state.chans[d] = Channel.supervised a.state.groups[h] a.state.chans[d] := by
        rcases Supervised.group_cases n a h with e | e <;> rw [e]
        · obtain ⟨s1, s2, s3, s4⟩ := Supervised.auto_spec a h d
          obtain ⟨k1, -, -⟩ := Supervised.check_get (a.auto h) h d h
          rw [k1, if_pos (by rw [s3]; exact hg)]
          simp only [s2]
          rw [s1, State.requestAuto_oneshot h _ d hm, if_pos hg, hacc]; rfl
        · obtain ⟨s1, -, -, s4⟩ := Supervised.auto_spec (a.check h) h d
          obtain ⟨k1, k2, k3⟩ := Supervised.check_get a h d h
          rw [if_pos rfl] at k2
          have hacc' : (GroupRec.supervised a.state.groups[h]).accepts .auto = false := by
            revert hacc
            generalize a.state.groups[h] = r
            unfold GroupRec.supervised
            by_cases q : r.state ≠ .run
            · rw [if_pos q]; exact id
            · rw [if_neg q]
              cases r.endPending <;> cases GroupRec.holdExpires r <;>
                simp_all [GroupRec.accepts, GroupRec.fallen, GroupState.commits, GroupState.discards]
          rw [s1, State.requestAuto_oneshot h _ d (by rw [k3]; exact hm), if_pos (by rw [k3]; exact hg), k2, hacc', k1,
            if_pos hg]
          rfl
      have hw : a.state.chans[d].worked a.state.groups[h] = Channel.supervised a.state.groups[h] a.state.chans[d] := by
        unfold Channel.worked Channel.autoed; rw [hacc]; rfl
      rw [hw, ← e] at worked
      have rest : ∀ (M : List Group) (b : Supervised), h ∉ M → b.state.chans[d].config.mode = .oneshot →
          b.state.chans[d].config.group = h → (M.foldl (Supervised.group n) b).state.chans[d] = b.state.chans[d] := by
        intro M
        induction M with
        | nil => intro b _ _ _; rfl
        | cons m M im =>
          intro b hn hbm hbg
          have e := Supervised.group_other n b m d hbm (by rw [hbg]; rintro rfl; exact hn List.mem_cons_self)
          rw [List.foldl_cons, im _ (fun q => hn (List.mem_cons_of_mem _ q)) (by rw [e]; exact hbm)
            (by rw [e]; exact hbg), e]
      rw [rest L _ hh (by rw [Supervised.group_config]; exact hm) (by rw [Supervised.group_config]; exact hg)]
      exact ⟨worked.1, worked.2⟩
    · have e := Supervised.group_other n a h d hm (by rw [hg]; exact Ne.symm k)
      have := ih (Supervised.group n a h) (by rw [e]; exact hm) (by rw [e]; exact hg)
        (by rw [Supervised.group_groups, if_neg k]; exact hacc)
        (by rw [Supervised.group_groups, if_neg k, e]; exact hc) hL
      rw [e] at this
      exact this

/-! ### Cycle starts -/

theorem State.supervise_chans (posts : List Posting) (s : State) :
    (s.supervise posts).chans = (allGroups.foldl (Supervised.group s.draws) ⟨s, [], []⟩).state.chans := by
  unfold State.supervise State.postBoth
  dsimp only
  rw [State.postAll_events]; rfl

/-- R93, R99 and R102: in a STOPPED group, or under an override that stays, no shot starts at a cycle start. -/
theorem State.cycleStart_barred (posts : List Posting) (s : State) (d : Chan) (g : Group)
    (hg : s.chans[d].config.group = g)
    (hb : s.groups[g].state = .stopped ∨ (s.chans[d].override ≠ .none ∧ Channel.still s.groups[g])) :
    s.chans[d].sameShot (s.cycleStart posts).chans[d] := by
  obtain ⟨h1, -, h3, -, h5, h6, h7, h8⟩ := State.cycleStart_halves posts s
  have ck := (State.copyArmed_spec s).2 d g hg
  obtain ⟨q1, q2, q3, -⟩ := Channel.copied_shot s.groups[g] s.chans[d]
  have hk : s.chans[d].sameShot s.copyArmed.chans[d] := by rw [ck]; exact ⟨q1, q2⟩
  have ho : s.copyArmed.chans[d].override = s.chans[d].override := by rw [ck, q3]
  rw [State.cycleStart_get]
  split
  · have ha := State.driveCycleStart_barred s.copyArmed.chans s.copyArmed d (by
      simp only [h6, h1, hg]; exact hb.imp id (fun q => by rw [ho]; exact q.1))
    have hao : (s.copyArmed.driveCycleStart s.copyArmed.chans).chans[d].override = s.chans[d].override := by
      obtain ⟨-, d2⟩ := State.driveCycleStart_spec s.copyArmed.chans s.copyArmed
      rw [(d2 d _ rfl).override, ← ho]
      unfold Channel.settled; (repeat' split) <;> rfl
    obtain ⟨b1, -⟩ := Supervised.fold_barred (s.copyArmed.driveCycleStart s.copyArmed.chans).draws allGroups (by decide)
      ⟨s.copyArmed.driveCycleStart s.copyArmed.chans, [], []⟩ g d (by dsimp only; rw [h7]; exact hg)
      (by dsimp only; simp only [h3]; exact hb.imp id (fun q => ⟨by rw [hao]; exact q.1, fun _ => q.2⟩))
    simp only [State.supervise_chans]
    exact (hk.trans ha).trans b1
  · obtain ⟨b1, b2⟩ := Supervised.fold_barred s.copyArmed.draws allGroups (by decide)
      ⟨s.copyArmed, [], []⟩ g d (by dsimp only; rw [h6]; exact hg)
      (by dsimp only; simp only [h1]; exact hb.imp id (fun q => ⟨by rw [ho]; exact q.1, fun _ => q.2⟩))
    simp only [← State.supervise_chans posts s.copyArmed] at b1 b2
    refine (hk.trans b1).trans (State.driveCycleStart_barred _ _ d ?_)
    simp only [h8, hg]
    exact hb.imp (fun q => by rw [h5]; exact (GroupRec.supervised_stopped _).mpr q)
      (fun q => by rw [b2, ho]; exact q.1)

/-- R111 and R112: a channel that falls back for HOLD, with IDLE or ACTIVE, has no shot after a cycle start. -/
theorem State.cycleStart_fallen (posts : List Posting) (s : State) (d : Chan) (g : Group)
    (hg : s.chans[d].config.group = g) (hf : GroupRec.holdExpires s.groups[g] = true)
    (ha : s.chans[d].config.action ≠ .hold) : (s.cycleStart posts).chans[d].shot = .idle := by
  obtain ⟨h1, -, h3, -, h5, h6, h7, h8⟩ := State.cycleStart_halves posts s
  rw [State.cycleStart_get]
  split
  · obtain ⟨b1, -⟩ := Supervised.fold_fallen (s.copyArmed.driveCycleStart s.copyArmed.chans).draws allGroups (by decide)
      ⟨s.copyArmed.driveCycleStart s.copyArmed.chans, [], []⟩ g d (by dsimp only; rw [h7]; exact hg) (mem_allGroups g)
      (by dsimp only; simp only [h3]; exact hf) (by dsimp only; rw [h7]; exact ha)
    simp only [State.supervise_chans]
    exact b1
  · obtain ⟨b1, b2⟩ := Supervised.fold_fallen s.copyArmed.draws allGroups (by decide)
      ⟨s.copyArmed, [], []⟩ g d (by dsimp only; rw [h6]; exact hg) (mem_allGroups g)
      (by dsimp only; simp only [h1]; exact hf) (by dsimp only; rw [h6]; exact ha)
    simp only [← State.supervise_chans posts s.copyArmed] at b1 b2
    rw [(State.driveCycleStart_barred _ _ d (Or.inr b2)).1]
    exact b1

/-- R66 and R70: a ONESHOT channel with a COMMIT trigger keeps its shot where the group does not accept the AUTO
commit and the channel does not fall back. -/
theorem State.cycleStart_autoRefused (posts : List Posting) (s : State) (d : Chan) (g : Group)
    (hg : s.chans[d].config.group = g) (hm : s.chans[d].config.mode = .oneshot)
    (ht : s.chans[d].config.trigger ≠ some .cycle) (hacc : s.groups[g].accepts .auto = false)
    (hc : s.chans[d].calm s.groups[g]) : s.chans[d].sameShot (s.cycleStart posts).chans[d] := by
  obtain ⟨h1, -, h3, -, h5, h6, h7, h8⟩ := State.cycleStart_halves posts s
  have ck := (State.copyArmed_spec s).2 d g hg
  obtain ⟨q1, q2, -, -⟩ := Channel.copied_shot s.groups[g] s.chans[d]
  have hk : s.chans[d].sameShot s.copyArmed.chans[d] := by rw [ck]; exact ⟨q1, q2⟩
  have hset (u : State) (live : Vector Channel 6) (hu : u.chans[d].config = s.chans[d].config) :
      (u.driveCycleStart live).chans[d] = u.chans[d] := by
    rw [State.driveCycleStart_other _ _ _ (by rw [hu, hm]; decide),
      Channel.atCycleStart_settled _ _ _ _ (by rw [hu]; exact fun _ => ht)]
    unfold Channel.settled
    simp only [hu, hm]
    exact ite_self _
  have calm' (c : Channel) (h : c.config = s.chans[d].config) : c.calm s.groups[g] := by
    unfold Channel.calm; rw [h]; exact hc
  rw [State.cycleStart_get]
  split
  · have ea := hset s.copyArmed s.copyArmed.chans (h6 d)
    have b1 := Supervised.fold_refused (s.copyArmed.driveCycleStart s.copyArmed.chans).draws allGroups
      ⟨s.copyArmed.driveCycleStart s.copyArmed.chans, [], []⟩ g d (by dsimp only; rw [h7]; exact hm)
      (by dsimp only; rw [h7]; exact hg) (by simp only [h3]; exact hacc)
      (by simp only [h3]; exact calm' _ (h7 d)) (by decide)
    simp only [State.supervise_chans]
    refine hk.trans (Channel.sameShot.trans ?_ b1)
    dsimp only; rw [ea]; exact ⟨rfl, rfl⟩
  · have b1 := Supervised.fold_refused s.copyArmed.draws allGroups ⟨s.copyArmed, [], []⟩ g d
      (by dsimp only; rw [h6]; exact hm) (by dsimp only; rw [h6]; exact hg) (by simp only [h1]; exact hacc)
      (by simp only [h1]; exact calm' _ (h6 d)) (by decide)
    simp only [← State.supervise_chans posts s.copyArmed] at b1
    rw [hset _ _ (h8 d)]
    exact hk.trans b1

end Sys2Proof.Machine
end

