-- ==== Sys2Proof/Laws/Steps.lean ====
section
/-!
SUPPORT. What a command does when it is taken: one function of the state for each row, and the inversion
lemma that every later proof about a step starts from.
-/

namespace Sys2Proof.Machine

/-- What a management row does at the check-byte moment of its frame. -/
def State.commandDone (via : Via) (seq : Seq) (code : CmdCode) (ops : List Byte) (s : State) : State :=
  if via = .own ∧ ¬s.assigned then s.pass else s.pass.takeCommand via none seq (cmdByte code :: ops)

/-- What a command does when it is taken, to the state in which its time has passed. -/
def State.effect (s : State) : Instr → State
  | .resetAssert _ => s.heldInReset
  | .resetRelease _ straps upLow downLow => s.released straps upLow downLow
  | .strayLow _ => s.shortLowEnds
  | .upBreak _ => (s.setRx .idle).openContext
  | .frameAbort _ => s.abort
  | .lineStuck _ port => match port with
    | .up => (s.setRx .stuck).post (stuckPosting .up)
    | .down => s.downStuck
  | .stuckEnd _ port => match port with
    | .up => s.setRx .idle
    | .down => { s with down := { s.down with state := .idle } }
  | .rateByte _ span value => s.takeRate span value
  | .rateLimit _ wait => s.rateLimit wait.low
  | .addressByte _ value => (s.setRx .idle).takeAddress value
  | .lengthByte _ value => (s.setRx .idle).takeLength value
  | .dataByte _ value => (s.setRx .idle).takeData value
  | .checkByte _ value => (s.setRx .idle).takeCheck value
  | .framingError _ => (s.setRx .idle).lineError .framing
  | .gapError window => s.gapError window.low
  | .unanswered window => s.goesUnanswered window.low
  | .ownResponseStart _ => s.sendOwn
  | .upByteSent _ => s.afterUpByte
  | .responseDelivered _ => s.deliver
  | .upConflict _ => s.conflict
  | .regenerationStart _ => s.regenerate
  | .downBreakEnd _ => s.downThen fun s => { s with down := { s.down with state := .delimiter, since := s.now } }
  | .delimiterEnd _ => { s with down := { s.down with state := .rate, since := s.now } }
  | .downByteSent _ => s.afterDownByte
  | .downConflict _ => s.downConflict
  | .foreignLow low => s.foreignBegins low.length
  | .foreignLowIgnored _ => s.foreignEnd
  | .downBreak _ => (s.foreignEnd.countDown fun c => { c with foreign := satInc c.foreign }).post
      { code := .downBreak, subject := .port .down, detail := .none }
  | .respTimeout _ => s.respTimeout
  | .downResponseByte _ value => s.takeResponse value
  | .downResponseCheck _ value => s.takeResponseCheck value
  | .downResponseFraming _ => s.responseFraming
  | .downResponseGap _ => (s.countDown fun c => { c with gap := satInc c.gap }).endResponse
  | .downResponseBreak low => s.responseBreak low.length
  | .lineQuiet _ => if s.quietDue then s.quietExpires else match s.metNow with
    | some limit => s.metExpires limit
    | none => s
  | .wrap _ => s.wrap
  | .widthPhaseStart _ chan => s.setChan chan { s.chans[chan] with phase := true }
  | .widthPhaseEnd _ chan => s.drive (onlyOn chan Channel.endPhase)
  | .shotDelayEnd _ chan => s.setChan chan { s.chans[chan] with shot := s.chans[chan].shot.afterDelay s.now }
  | .shotEnd _ chan => s.drive (onlyOn chan Channel.endShot)
  | .capturePinChange _ input level => if s.caps[input].pin = level then s else s.pinChange input level
  | .captureEdge _ input => s.pendingEdge input
  | .captureOverflow _ input => s.setCap input s.caps[input].overflow
  | .settlingEnd _ => { s with sampler := { s.sampler with scan := .converting 0 s.now } }
  | .conversionEnd _ value => match s.sampler.scan with
    | .converting pos _ => match s.sampler.list[pos.val]? with
      | some a => s.convert pos a value
      | none => s
    | _ => s
  | .ping _ via seq => s.commandDone via seq .ping []
  | .readStatus _ via seq => s.commandDone via seq .readStatus []
  | .readCounts _ via seq view => s.commandDone via seq .readCounts [view]
  | .clearCounts _ via seq => s.commandDone via seq .clearCounts []
  | .setLine _ via seq rate limit => s.commandDone via seq .setLine [rate, limit]
  | .assignStation _ via seq station => s.commandDone via seq .assignStation [station]
  | .unassign _ via seq => s.commandDone via seq .unassign []
  | .softReset _ via seq => s.commandDone via seq .softReset []
  | .writeTag _ via seq tag role forward expected first count commitAfter filter sync buffer => s.commandDone via seq .writeTag [tag, role, forward, expected, first, count, commitAfter, filter, sync, buffer]
  | .readTag _ via seq bank tag => s.commandDone via seq .readTag [bank, tag]
  | .writeUnpack _ via seq first number descriptors => s.commandDone via seq .writeUnpack (first :: number :: descriptors)
  | .readUnpack _ via seq bank first number => s.commandDone via seq .readUnpack [bank, first, number]
  | .swapBanks _ via seq => s.commandDone via seq .swapBanks []
  | .copyBank _ via seq => s.commandDone via seq .copyBank []
  | .configCycle _ via seq tick periodHigh periodLow mode => s.commandDone via seq .configCycle [tick, periodHigh, periodLow, mode]
  | .configChannel _ via seq chan mode group polarity leader trigger retrigger action => s.commandDone via seq .configChannel [chan, mode, group, polarity, leader, trigger, retrigger, action]
  | .configGroup _ via seq group sources holdLimit quietTrip => s.commandDone via seq .configGroup [group, sources, holdLimit, quietTrip]
  | .groupStart _ via seq mask => s.commandDone via seq .groupStart [mask]
  | .groupStop _ via seq mask => s.commandDone via seq .groupStop [mask]
  | .groupResume _ via seq mask => s.commandDone via seq .groupResume [mask]
  | .commit _ via seq mask => s.commandDone via seq .commit [mask]
  | .readChannel _ via seq chan view => s.commandDone via seq .readChannel [chan, view]
  | .configCapture _ via seq input mode edge filter => s.commandDone via seq .configCapture [input, mode, edge, filter]
  | .readCapture _ via seq input => s.commandDone via seq .readCapture [input]
  | .configSampler _ via seq mode length entry0 entry1 entry2 entry3 source => s.commandDone via seq .configSampler [mode, length, entry0, entry1, entry2, entry3, source]
  | .setLimits _ via seq input lowHigh lowLow highHigh highLow tripMask => s.commandDone via seq .setLimits [input, lowHigh, lowLow, highHigh, highLow, tripMask]
  | .sampleNow _ via seq => s.commandDone via seq .sampleNow []
  | .readSamples _ via seq view input => s.commandDone via seq .readSamples [view, input]
  | .writeSource _ via seq index kind selector => s.commandDone via seq .writeSource [index, kind, selector]
  | .writePubmap _ via seq buffer first count => s.commandDone via seq .writePubmap [buffer, first, count]
  | .readPublish _ via seq view operand half => s.commandDone via seq .readPublish [view, operand, half]
  | .eventRead _ via seq => s.commandDone via seq .eventRead []
  | .eventAck _ via seq stamp => s.commandDone via seq .eventAck [stamp]
  | .upLowSeen _ => s.seeLow

/-- With RESET low only time passes; otherwise the meaning applies. -/
theorem live_next {dt : Time} {s t : State} {f : State → Out} (h : live dt s f = .next t) :
    (s.inReset = true ∧ t = s.after dt) ∨ (s.inReset = false ∧ f (s.after dt) = .next t) := by
  unfold live at h
  split at h
  · cases h; exact .inl ⟨‹_›, rfl⟩
  · exact .inr ⟨by simpa using ‹¬s.inReset = true›, h⟩

/-- An event answers a next state only in its place and when it is due. -/
theorem event_next {dt : Time} {s t : State} {p d : State → Bool} {f : State → State}
    (h : event dt s p d f = .next t) :
    (s.inReset = true ∧ t = s.after dt) ∨
      (s.inReset = false ∧ p (s.after dt) = true ∧ d (s.after dt) = true ∧ t = f (s.after dt)) := by
  unfold event live at h
  split at h
  · cases h; exact .inl ⟨‹_›, rfl⟩
  · beta_reduce at h
    split at h
    · split at h
      · cases h; exact .inr ⟨by simpa using ‹¬s.inReset = true›, ‹_›, ‹_›, rfl⟩
      · cases h
    · cases h

theorem happens_next {dt : Time} {s t : State} {p : State → Bool} {f : State → State}
    (h : happens dt s p f = .next t) :
    (s.inReset = true ∧ t = s.after dt) ∨
      (s.inReset = false ∧ p (s.after dt) = true ∧ t = f (s.after dt)) := by
  unfold happens live at h
  split at h
  · cases h; exact .inl ⟨‹_›, rfl⟩
  · beta_reduce at h
    split at h
    · cases h; exact .inr ⟨by simpa using ‹¬s.inReset = true›, ‹_›, rfl⟩
    · cases h

theorem receive_next {dt : Time} {st : FcState} {s t : State} {f : State → State}
    (h : receive dt st s (fun s => .next (f s)) = .next t) :
    (s.inReset = true ∧ t = s.after dt) ∨
      (s.inReset = false ∧ s.fc.state = st ∧ t = f ((s.after dt).setRx .idle)) := by
  unfold receive live at h
  split at h
  · cases h; exact .inl ⟨‹_›, rfl⟩
  · beta_reduce at h
    split at h
    · cases h
    · split at h
      · cases h
      · split at h
        · cases h
        · cases h; exact .inr ⟨by simpa using ‹¬s.inReset = true›, by simp_all [State.after], rfl⟩

theorem responseByte_next {dt : Time} {last : Bool} {s t : State} {f : State → State}
    (h : responseByte dt last s f = .next t) :
    (s.inReset = true ∧ t = s.after dt) ∨ (s.inReset = false ∧ t = f (s.after dt)) := by
  unfold responseByte live at h
  split at h
  · cases h; exact .inl ⟨‹_›, rfl⟩
  · beta_reduce at h
    split at h
    · cases h
    · split at h
      · cases h
      · cases h; exact .inr ⟨by simpa using ‹¬s.inReset = true›, rfl⟩

theorem command_next {dt : Time} {via : Via} {seq : Seq} {code : CmdCode} {ops : List Byte} {s t : State}
    (h : command dt via seq code ops s = .next t) :
    (s.inReset = true ∧ t = s.after dt) ∨
      (s.inReset = false ∧ s.lineFree = true ∧ t = (s.after dt).commandDone via seq code ops) := by
  unfold command live at h
  split at h
  · cases h; exact .inl ⟨‹_›, rfl⟩
  · refine .inr ⟨by simpa using ‹¬s.inReset = true›, ?_⟩
    unfold State.commandDone
    beta_reduce at h
    split at h
    · refine ⟨‹_›, ?_⟩
      split at h
      · cases h; rw [if_pos ‹_›]
      · cases h; rw [if_neg ‹_›]
    · cases h

/-- An event in its place and due is taken. -/
theorem event_run {dt : Time} {s : State} {p d : State → Bool} {f : State → State}
    (hr : s.inReset = false) (hp : p (s.after dt) = true) (hd : d (s.after dt) = true) :
    event dt s p d f = .next (f (s.after dt)) := by
  simp only [event, live, hr, hp, hd, Bool.false_eq_true, if_true, if_false]

theorem happens_run {dt : Time} {s : State} {p : State → Bool} {f : State → State}
    (hr : s.inReset = false) (hp : p (s.after dt) = true) : happens dt s p f = .next (f (s.after dt)) := by
  simp only [happens, live, hr, hp, Bool.false_eq_true, if_true, if_false]

/-- An event out of its place is refused. -/
theorem happens_refused {dt : Time} {s : State} {p : State → Bool} {f : State → State}
    (hr : s.inReset = false) (hp : p (s.after dt) = false) :
    happens dt s p f = .refused .outOfPlace := by
  simp only [happens, live, hr, hp, Bool.false_eq_true, if_false]

/-- A byte that completes in time is taken, with the UP wire high. -/
theorem receive_run {dt : Time} {st : FcState} {s : State} {f : State → Out} (hr : s.inReset = false)
    (hs : s.fc.state = st) (hx : s.up.rx ≠ .stuck) (hl : (s.after dt).byteLate = false)
    (hb : (s.after dt).byteRefusal s.fc.pace = none) :
    receive dt st s f = f ((s.after dt).setRx .idle) := by
  have : ¬(s.fc.state ≠ st ∨ s.up.rx = .stuck) := by simp [hs, hx]
  have hb' : (s.after dt).byteRefusal (s.after dt).fc.pace = none := hb
  simp only [receive, live, hr, hl, hb', Bool.false_eq_true, if_false]
  exact if_neg this

/-- A management row at a free line. -/
theorem command_run {dt : Time} {via : Via} {seq : Seq} {code : CmdCode} {ops : List Byte} {s : State}
    (hr : s.inReset = false) (hl : s.lineFree = true) :
    command dt via seq code ops s = .next ((s.after dt).commandDone via seq code ops) := by
  have hl' : (s.after dt).lineFree = true := hl
  simp only [command, live, hr, hl', State.commandDone, Bool.false_eq_true, if_true, if_false]
  split <;> rfl

/-- A command that is taken: with RESET low only time passes, but for the reset rows and a capture pin;
otherwise its effect applies to the state in which its time has passed. -/
theorem exec_next (c : Instr) (s t : State) (h : exec c s = .next t) :
    (s.inReset = true ∧ t = s.after c.dt) ∨
    (∃ dt k l, c = .capturePinChange dt k l ∧
      s.inReset = true ∧ t = (s.after dt).setCap k { s.caps[k] with pin := l }) ∨
    t = (s.after c.dt).effect c := by
  cases c <;> dsimp only [exec] at h
  case resetAssert dt =>
    unfold execResetAssert at h
    dsimp only at h
    split at h <;> cases h
    · exact .inl ⟨‹_›, rfl⟩
    · exact .inr (.inr rfl)
  case resetRelease dt st u d => cases h; exact .inr (.inr rfl)
  case capturePinChange dt k l =>
    unfold execCapturePinChange at h
    dsimp only at h
    split at h
    · cases h; exact .inr (.inl ⟨_, _, _, rfl, ‹_›, rfl⟩)
    · refine .inr (.inr ?_)
      show t = if (s.after dt).caps[k].pin = l then s.after dt else (s.after dt).pinChange k l
      split at h
      · cases h; rw [if_pos ‹_›]
      · split at h
        · cases h
        · cases h; rw [if_neg ‹_›]
  case lineQuiet dt =>
    rcases live_next h with ⟨a, rfl⟩ | ⟨-, h⟩
    · exact .inl ⟨a, rfl⟩
    · refine .inr (.inr ?_)
      show t = if (s.after dt).quietDue then (s.after dt).quietExpires else match (s.after dt).metNow with
        | some limit => (s.after dt).metExpires limit
        | none => s.after dt
      split at h
      · cases h; rw [if_pos ‹_›]
      · rw [if_neg ‹_›]
        split at h
        · cases h; simp only [‹(s.after dt).metNow = _›]
        · split at h <;> cases h
  case settlingEnd dt =>
    unfold execSettlingEnd live at h
    split at h
    · cases h; exact .inl ⟨‹_›, rfl⟩
    · beta_reduce at h
      split at h
      · split at h <;> cases h
        exact .inr (.inr rfl)
      · cases h
  case conversionEnd dt value =>
    unfold execConversionEnd live at h
    split at h
    · cases h; exact .inl ⟨‹_›, rfl⟩
    · beta_reduce at h
      split at h
      · split at h
        · split at h <;> cases h
          refine .inr (.inr ?_)
          show _ = match (s.after dt).sampler.scan with
            | .converting pos _ => match (s.after dt).sampler.list[pos.val]? with
              | some a => (s.after dt).convert pos a value
              | none => s.after dt
            | _ => s.after dt
          simp_all
        · cases h
      · cases h
  case strayLow | frameAbort | upLowSeen | rateByte | rateLimit | framingError | upByteSent | downResponseFraming | downResponseBreak | captureEdge =>
    first
      | unfold execRateByte at h
      | unfold execRateLimit at h
      | unfold execStrayLow at h
      | unfold execFrameAbort at h
      | unfold execUpLowSeen at h
      | unfold execFramingError at h
      | unfold execUpByteSent at h
      | unfold execDownResponseFraming at h
      | unfold execDownResponseBreak at h
      | unfold execCaptureEdge at h
    rcases live_next h with ⟨a, rfl⟩ | ⟨-, h⟩
    · exact .inl ⟨a, rfl⟩
    · first | dsimp only at h | beta_reduce at h
      repeat' split at h
      all_goals first | (cases h; done) | skip
      cases h
      exact .inr (.inr rfl)
  all_goals simp only [execUpBreak, execLineStuck, execStuckEnd,
    execAddressByte, execLengthByte, execDataByte, execCheckByte, execGapError,
    execUnanswered, execOwnResponseStart, execResponseDelivered, execUpConflict,
    execRegenerationStart, execDownBreakEnd, execDelimiterEnd, execDownByteSent, execDownConflict,
    execForeignLow, execForeignLowIgnored, execDownBreak, execRespTimeout, execDownResponseByte,
    execDownResponseCheck, execDownResponseGap, execWrap, execWidthPhaseStart, execWidthPhaseEnd, execShotDelayEnd, execShotEnd,
    execCaptureOverflow, execPing, execReadStatus, execReadCounts, execClearCounts,
    execSetLine, execAssignStation, execUnassign, execSoftReset, execWriteTag, execReadTag,
    execWriteUnpack, execReadUnpack, execSwapBanks, execCopyBank, execConfigCycle, execConfigChannel,
    execConfigGroup, execGroupStart, execGroupStop, execGroupResume, execCommit, execReadChannel,
    execConfigCapture, execReadCapture, execConfigSampler, execSetLimits, execSampleNow,
    execReadSamples, execWriteSource, execWritePubmap, execReadPublish, execEventRead, execEventAck] at h
  all_goals first
    | (rcases command_next h with ⟨a, rfl⟩ | ⟨-, -, rfl⟩
       exacts [.inl ⟨a, rfl⟩, .inr (.inr rfl)])
    | (rcases event_next h with ⟨a, rfl⟩ | ⟨-, -, -, rfl⟩
       exacts [.inl ⟨a, rfl⟩, .inr (.inr rfl)])
    | (rcases happens_next h with ⟨a, rfl⟩ | ⟨-, -, rfl⟩
       exacts [.inl ⟨a, rfl⟩, .inr (.inr rfl)])
    | (rcases receive_next h with ⟨a, rfl⟩ | ⟨-, -, rfl⟩
       exacts [.inl ⟨a, rfl⟩, .inr (.inr rfl)])
    | (rcases responseByte_next h with ⟨a, rfl⟩ | ⟨-, rfl⟩
       exacts [.inl ⟨a, rfl⟩, .inr (.inr rfl)])

end Sys2Proof.Machine
end

