-- ==== Sys2Proof/Laws/LineRows.lean ====
section
/-!
SUPPORT. What the line rows leave as it was: the tag banks, the channels and groups, the cycle counter, the
measurement units, the publish maps, the management unit, and the parts that every command carries.
-/

namespace Sys2Proof.Machine

/-- The blocks that the ports do not write, beside what every command carries. -/
def State.keepsBlocks (s t : State) : Prop :=
  t.now = s.now ∧ t.inReset = s.inReset ∧ t.straps = s.straps ∧ t.pending = s.pending ∧
  t.tags.active = s.tags.active ∧ t.tags.shadow = s.tags.shadow ∧ t.chans = s.chans ∧
  t.groups = s.groups ∧ t.lastMark = s.lastMark ∧ t.cycle = s.cycle ∧ t.caps = s.caps ∧
  t.sampler = s.sampler ∧ t.publish.source = s.publish.source ∧ t.publish.maps = s.publish.maps ∧
  t.mgmt = s.mgmt

theorem State.keepsBlocks_trans {s t u : State} (h : s.keepsBlocks t) (k : t.keepsBlocks u) :
    s.keepsBlocks u := by
  unfold State.keepsBlocks at *
  simp_all

theorem State.takeRate_keeps (span : Time) (value : Byte) (s : State) :
    s.keepsBlocks (s.takeRate span value) := by
  unfold State.takeRate; repeat' split
  all_goals simp [State.keepsBlocks]

theorem State.openFrame_keeps (b : Byte) (h : Head) (c : Option EntryCopy) (f : FrameForward) (n : Bool)
    (s : State) : s.keepsBlocks (s.openFrame b h c f n) := by
  simp [State.openFrame, State.keepsBlocks]

theorem State.takeAddress_keeps (b : Byte) (s : State) : s.keepsBlocks (s.takeAddress b) := by
  unfold State.takeAddress
  split
  · simp [State.keepsBlocks]
  · refine State.keepsBlocks_trans (t := _) ?_ (State.openFrame_keeps ..)
    split <;> simp [State.keepsBlocks]
  · exact State.openFrame_keeps ..

theorem State.settleAnswer_keeps (h : Head) (n : Nat) (s : State) :
    s.keepsBlocks (s.settleAnswer h n) := by
  unfold State.settleAnswer State.relayOrListen State.sizeMismatch State.listenUp State.respond
    State.buildSnapshot State.setRecord
  dsimp only
  repeat' split
  all_goals simp [State.keepsBlocks]

theorem State.takeLength_keeps (b : Byte) (s : State) : s.keepsBlocks (s.takeLength b) := by
  have hr : s.keepsBlocks (s.recordLength b s.fc.head) := by
    unfold State.recordLength; dsimp only; split <;> simp [State.keepsBlocks]
  unfold State.takeLength
  dsimp only
  split
  · simp [State.keepsBlocks]
  · split
    · exact hr
    · split
      · exact State.keepsBlocks_trans hr (State.keepsBlocks_trans (t := (State.joinDown b .turn _))
          (by simp [State.keepsBlocks]) (State.settleAnswer_keeps ..))
      · refine State.keepsBlocks_trans hr ?_
        unfold State.releaseHeld
        repeat' split
        all_goals simp [State.keepsBlocks]

theorem State.takeData_keeps (b : Byte) (s : State) : s.keepsBlocks (s.takeData b) := by
  unfold State.takeData State.settlePending State.releaseHeld
  dsimp only
  repeat' split
  all_goals simp [State.keepsBlocks]

theorem State.sendOwn_keeps (s : State) : s.keepsBlocks s.sendOwn := by
  unfold State.sendOwn; split <;> simp [State.keepsBlocks]

theorem State.afterUpByte_keeps (s : State) : s.keepsBlocks s.afterUpByte := by
  unfold State.afterUpByte State.relayFailed
  repeat' split
  all_goals first | exact s.sendOwn_keeps | simp [State.keepsBlocks]

theorem State.downThen_keeps (f : State → State) (hf : ∀ u, State.keepsBlocks u (f u)) (s : State) :
    s.keepsBlocks (s.downThen f) := by
  unfold State.downThen; split
  · simp [State.keepsBlocks]
  · exact hf s

theorem State.downComplete_keeps (s : State) : s.keepsBlocks s.downComplete := by
  simp [State.downComplete, State.keepsBlocks]

theorem State.afterDownByte_keeps (s : State) : s.keepsBlocks s.afterDownByte := by
  unfold State.afterDownByte
  repeat' split
  all_goals first
    | exact State.downThen_keeps _ State.downComplete_keeps s
    | (refine State.downThen_keeps _ (fun u => ?_) s; simp [State.keepsBlocks]; done)
    | (refine State.downThen_keeps _ (fun u => ?_) s; unfold State.keepsBlocks; and_intros <;> rfl)

theorem State.takeResponse_keeps (b : Byte) (s : State) : s.keepsBlocks (s.takeResponse b) := by
  simp [State.takeResponse, State.keepsBlocks]

theorem State.takeResponseCheck_keeps (b : Byte) (s : State) : s.keepsBlocks (s.takeResponseCheck b) := by
  simp [State.takeResponseCheck, State.keepsBlocks]

theorem State.deliver_keeps (s : State) : s.keepsBlocks s.deliver := by
  unfold State.deliver State.deliveredEffect State.served State.acceptFrame State.setRuntime State.setRecord
  dsimp only
  repeat' split
  all_goals simp [State.keepsBlocks]

theorem State.conflict_keeps (s : State) : s.keepsBlocks s.conflict := by
  unfold State.conflict State.cutServe State.serveCut State.setRecord
  dsimp only
  repeat' split
  all_goals simp [State.keepsBlocks]

/-- The rows of the two ports, but for the check byte, the management rows and the quiet timer. -/
def isPortRow : Instr → Bool
  | .strayLow _ | .upBreak _ | .frameAbort _ | .lineStuck _ _ | .stuckEnd _ _ | .rateByte _ _ _
  | .rateLimit _ _ | .addressByte _ _ | .lengthByte _ _ | .dataByte _ _ | .framingError _ | .gapError _
  | .unanswered _ | .ownResponseStart _ | .upByteSent _ | .responseDelivered _ | .upConflict _
  | .regenerationStart _ | .downBreakEnd _ | .delimiterEnd _ | .downByteSent _ | .downConflict _
  | .foreignLow _ | .foreignLowIgnored _ | .downBreak _ | .respTimeout _ | .downResponseByte _ _
  | .downResponseCheck _ _ | .downResponseFraming _ | .downResponseGap _ | .downResponseBreak _
  | .upLowSeen _ => true
  | _ => false

/-- A port row keeps every other block. -/
theorem State.effect_keepsBlocks (s : State) (c : Instr) (h : isPortRow c = true) :
    s.keepsBlocks (s.effect c) := by
  cases c
  all_goals first | (simp only [isPortRow] at h; cases h; done) | skip
  all_goals dsimp only [State.effect]
  case rateByte => exact s.takeRate_keeps ..
  case addressByte => exact State.keepsBlocks_trans (t := s.setRx .idle) (by simp [State.keepsBlocks]) (State.takeAddress_keeps ..)
  case lengthByte => exact State.keepsBlocks_trans (t := s.setRx .idle) (by simp [State.keepsBlocks]) (State.takeLength_keeps ..)
  case dataByte => exact State.keepsBlocks_trans (t := s.setRx .idle) (by simp [State.keepsBlocks]) (State.takeData_keeps ..)
  case ownResponseStart => exact s.sendOwn_keeps
  case upByteSent => exact s.afterUpByte_keeps
  case responseDelivered => exact s.deliver_keeps
  case upConflict => exact s.conflict_keeps
  case downByteSent => exact s.afterDownByte_keeps
  case downBreakEnd => exact State.downThen_keeps _ (fun u => by simp [State.keepsBlocks]) s
  case downResponseByte => exact s.takeResponse_keeps _
  case downResponseCheck => exact s.takeResponseCheck_keeps _
  case lineStuck dt port =>
    cases port
    · simp [State.keepsBlocks]
    · simp [State.keepsBlocks, State.downStuck]
  case stuckEnd dt port => cases port <;> simp [State.keepsBlocks]
  case regenerationStart => unfold State.regenerate; split <;> simp [State.keepsBlocks]
  case downConflict => simp [State.downConflict, State.keepsBlocks]
  case respTimeout => unfold State.respTimeout State.unanswered; split <;> simp [State.keepsBlocks]
  case upBreak => simp [State.openContext, State.keepsBlocks]
  case frameAbort => simp [State.abort, State.keepsBlocks]
  case strayLow => unfold State.shortLowEnds; dsimp only; split <;> simp [State.keepsBlocks]
  case upLowSeen => simp [State.seeLow, State.keepsBlocks]
  case foreignLow => simp [State.foreignBegins, State.keepsBlocks]
  case rateLimit => simp [State.rateLimit, State.wireAtEnd, State.keepsBlocks]
  case gapError => simp [State.gapError, State.wireAtEnd, State.keepsBlocks]
  case unanswered => simp [State.goesUnanswered, State.wireAtEnd, State.keepsBlocks]
  case downResponseFraming => simp [State.responseFraming, State.keepsBlocks]
  case downResponseBreak => simp [State.responseBreak, State.keepsBlocks]
  case foreignLowIgnored => simp [State.foreignEnd, State.keepsBlocks]
  case downBreak => simp [State.foreignEnd, State.keepsBlocks]
  all_goals simp [State.keepsBlocks]

/-! ### A start edge in time leaves a moment for its byte (R13, R14) -/

/-- At the first whole moment of its stop-cell centre, a byte whose start edge is in time is not late. -/
theorem State.not_byteLate_of_edgeInTime {edge : Time} {s : State} (hs : s.fc.state ≠ .rate)
    (hb : s.fc.ref ≤ edge) (he : edge ≤ s.now) (h : s.edgeInTime edge = true)
    (ht : 14 * (s.now - edge) < 19 * s.fc.pace + 14) : s.byteLate = false := by
  have hw : s.window2 = if s.fc.awaitsResponse then 3 * s.fc.pace else s.fc.pace := by
    unfold State.window2
    split
    · contradiction
    · rfl
  simp only [State.edgeInTime, hw, decide_eq_true_eq] at h
  simp only [State.byteLate, limitPassed, decide_eq_false_iff_not]
  split at h <;> rename_i ha <;> simp only [Time, ha, Bool.false_eq_true, if_true, if_false] at * <;> omega

/-- The same of a rate byte that passes the rate step. -/
theorem State.not_rateByteLate_of_edgeInTime {edge span : Time} {s : State} (hs : s.fc.state = .rate)
    (hb : s.fc.ref ≤ edge) (he : edge ≤ s.now) (h : s.edgeInTime edge = true)
    (hearly : spanEarly s.nominal span = false) (hlate : spanLate s.nominal span = false)
    (ht : 14 * (s.now - edge) < 19 * span + 14) : s.rateByteLate span = false := by
  have hw : 2 * (edge - s.fc.ref) ≤ 6 * s.nominal := by simpa [State.edgeInTime, State.window2, hs] using h
  simp only [State.rateByteLate, hearly, hlate, limitPassed, Bool.false_eq_true, if_false, decide_eq_false_iff_not]
  simp only [Time] at *
  omega

end Sys2Proof.Machine
end

