-- ==== Sys2Proof/Laws/Management.lean ====
section
/-!
SUPPORT. What a management row answers where its frame reaches the management unit: one equation for an
own command, one for a broadcast, and the small facts about operands that every rule's checks ask for.
-/

namespace Sys2Proof.Machine

/-- R20 and R37: a pass touches time-keeping of the UP port and the events only. -/
theorem State.pass_eq (s : State) :
    s.pass = { s with up := s.pass.up, events := s.pass.events } := by
  unfold State.pass
  rw [State.postAll_events]
  rfl

@[simp] theorem State.pass_mgmt_eq (s : State) : s.pass.mgmt = s.mgmt := by rw [s.pass_eq]

@[simp] theorem cmdOf_cmdByte (code : CmdCode) : cmdOf (cmdByte code) = some code := by cases code <;> rfl

/-- A management row lets its frame pass and hands its data to the management unit. -/
theorem State.commandDone_carries (via : Via) (seq : Seq) (code : CmdCode) (ops : List Byte) (s : State) :
    s.carries (s.commandDone via seq code ops) := by
  unfold State.commandDone
  split
  · simp [State.carries]
  · exact State.carries_trans (t := s.pass) (by simp [State.carries]) (State.takeCommand_carries ..)

/-- R168: a command whose length is right runs its rule. -/
theorem runOwn_eq (carrier : Option Nat) (code : CmdCode) (ops : List Byte) (s : State)
    (h : lengthFault code ops = none) :
    runOwn carrier (cmdByte code :: ops) s = runRule .own carrier code ops s := by
  unfold runOwn
  simp only [cmdOf_cmdByte, h]

/-- The state in which a command with a new sequence is executed (R166). -/
def State.taken (dt : Time) (seq : Seq) (s : State) : State :=
  { (s.after dt).pass with mgmt := { s.mgmt with lastSeq := some seq } }

/-- R168 and R170: an own command, at a free line, of a bridge with a station. -/
theorem command_own {dt : Time} {seq : Seq} {s : State} (code : CmdCode) (ops : List Byte)
    (hr : s.inReset = false) (hl : s.lineFree = true) (ha : s.assigned = true)
    (hq : s.mgmt.lastSeq ≠ some seq) :
    command dt .own seq code ops s = .next (
      let r := runOwn none (cmdByte code :: ops) (s.taken dt seq)
      { r.state with mgmt := { r.state.mgmt with reply := replyOf seq (cmdByte code :: ops) r } }) := by
  rw [command_run hr hl]
  unfold State.commandDone
  rw [if_neg (fun h => h.2 ha)]
  unfold State.takeCommand
  rw [if_neg (by rw [State.pass_mgmt_eq]; exact hq)]
  rw [State.pass_mgmt_eq]
  rfl

/-- R169: a broadcast that may be executed, at a free line. -/
theorem command_broadcast {dt : Time} {seq : Seq} {s : State} (code : CmdCode) (ops : List Byte)
    (hr : s.inReset = false) (hl : s.lineFree = true) (hq : s.mgmt.lastSeq ≠ some seq)
    (hc : cmdByBroadcast code = true) (hn : lengthFault code ops = none) :
    command dt .broadcast seq code ops s =
      .next (runRule .broadcast none code ops (s.taken dt seq)).state := by
  rw [command_run hr hl]
  unfold State.commandDone
  rw [if_neg (by simp)]
  unfold State.takeCommand
  rw [if_neg (by rw [State.pass_mgmt_eq]; exact hq)]
  rw [State.pass_mgmt_eq]
  show Host.Outcome.next (State.broadcastCommand none (cmdByte code :: ops) (s.taken dt seq)) = _
  unfold State.broadcastCommand broadcastCode
  simp only [cmdOf_cmdByte, if_pos (show cmdByBroadcast code = true ∧ lengthFault code ops = none from ⟨hc, hn⟩)]
  rfl

/-! ### Operands -/

theorem byteOf_toNat {n : Nat} (h : n < 256) : (byteOf n).toNat = n := by
  unfold byteOf
  simp
  omega

/-- R191: a number operand below its bound is read as it is. -/
theorem finOf_byteOf {n : Nat} (h : n ≤ 256) (k : Fin n) : finOf n (byteOf k.val) = some k := by
  have e : (byteOf k.val).toNat = k.val := byteOf_toNat (by omega)
  unfold finOf
  rw [dif_pos (by rw [e]; exact k.isLt)]
  simp [e]

theorem below_byteOf {n : Nat} (h : n ≤ 256) (k : Fin n) : below n (byteOf k.val) = true := by
  have e : (byteOf k.val).toNat = k.val := byteOf_toNat (by omega)
  simp [below, e]

/-- R191: a rule acts when every operand is sound. -/
theorem checked_sound {checks : List Check} {s : State} {act : Ruling} (h : firstFault checks = none) :
    checked checks s act = act := by
  unfold checked
  rw [h]

/-- R191: a rule refuses the first faulty operand and changes nothing. -/
theorem checked_faulty {checks : List Check} {s : State} {act : Ruling} {pos : Byte}
    (h : firstFault checks = some pos) : checked checks s act = answer .badOperand [pos] s := by
  unfold checked
  rw [h]

end Sys2Proof.Machine
end

