-- ==== Sys2Proof/Laws/Relay.lean ====
section
/-!
SUPPORT. What the operations of the relay path do to the frame context (its relay field, and an end
RELAY_FAILED where it was relaying a response, R28), and how long they leave the relay queue (R26).
-/

namespace Sys2Proof.Machine

/-- The context is as it was but for its relay field; a context that was in RELAY_RESPONSE may have ended. -/
def FrameContext.follows (a b : FrameContext) : Prop :=
  ∃ r st o, b = { a with relay := r, state := st, outcome := o } ∧
    (a.state ≠ .relayResponse → st = a.state ∧ o = a.outcome)

theorem FrameContext.follows_refl (a : FrameContext) : a.follows a := ⟨_, _, _, rfl, fun _ => ⟨rfl, rfl⟩⟩

theorem FrameContext.follows_trans {a b c : FrameContext} (h : a.follows b) (k : b.follows c) :
    a.follows c := by
  obtain ⟨r, st, o, rfl, h⟩ := h
  obtain ⟨r', st', o', rfl, k⟩ := k
  refine ⟨r', st', o', rfl, fun hne => ?_⟩
  obtain ⟨rfl, rfl⟩ := h hne
  exact k hne

theorem State.dropRelay_follows (n : Nat) (s : State) : s.fc.follows (s.dropRelay n).fc := by
  unfold State.dropRelay
  split
  · split
    · exact ⟨_, _, _, rfl, fun h => absurd ‹_› h⟩
    · exact ⟨_, _, _, rfl, fun _ => ⟨rfl, rfl⟩⟩
  · exact FrameContext.follows_refl _

theorem State.abandon_follows (n : Nat) (s : State) : s.fc.follows (s.abandon n).fc := by
  unfold State.abandon
  dsimp only
  split <;> exact State.dropRelay_follows n (s.dropEntries n)

theorem State.stuckDrops_follows (n : Nat) (s : State) : s.fc.follows (s.stuckDrops n).fc := by
  induction n generalizing s with
  | zero => exact FrameContext.follows_refl _
  | succ n ih =>
    unfold State.stuckDrops
    split
    · exact FrameContext.follows_refl _
    · split
      · exact FrameContext.follows_trans (State.abandon_follows _ s.countDownConflict) (ih _)
      · exact FrameContext.follows_refl _

theorem State.stuckDrop_follows (s : State) : s.fc.follows s.stuckDrop.fc := by
  unfold State.stuckDrop
  split
  · exact State.stuckDrops_follows _ _
  · exact FrameContext.follows_refl _

@[simp] theorem State.downNext_fc (s : State) : s.downNext.fc = s.fc := by
  unfold State.downNext
  repeat' split
  all_goals rfl

theorem State.enqueue_follows (e : RelayEntry) (s : State) : s.fc.follows (s.enqueue e).fc := by
  unfold State.enqueue
  dsimp only
  split
  · rw [State.downNext_fc]; exact FrameContext.follows_refl _
  · exact State.stuckDrop_follows _

theorem State.joined_follows (v : Byte) (m : Marker) (s : State) : s.fc.follows (s.joined v m).fc := by
  unfold State.joined
  split
  · split
    · exact State.abandon_follows _ s
    · exact State.enqueue_follows _ s
  · exact FrameContext.follows_refl _

theorem State.joinDown_follows (v : Byte) (m : Marker) (s : State) : s.fc.follows (s.joinDown v m).fc := by
  simpa [State.joinDown] using State.joined_follows v m s

/-! ### The length of the queue -/

theorem State.dropRelay_relay (n : Nat) (s : State) : (s.dropRelay n).relay = s.relay := by
  unfold State.dropRelay
  repeat' split
  all_goals rfl

theorem State.abandon_length (n : Nat) (s : State) : (s.abandon n).relay.length ≤ s.relay.length := by
  have h : (s.abandon n).relay = s.relay.filter fun e => e.frame != n := by
    unfold State.abandon
    dsimp only
    split <;> exact State.dropRelay_relay n (s.dropEntries n)
  rw [h]
  exact List.length_filter_le _ _

theorem State.stuckDrops_length (n : Nat) (s : State) : (s.stuckDrops n).relay.length ≤ s.relay.length := by
  induction n generalizing s with
  | zero => exact Nat.le_refl _
  | succ n ih =>
    unfold State.stuckDrops
    split
    · exact Nat.le_refl _
    · split
      · exact Nat.le_trans (ih _) (State.abandon_length _ s.countDownConflict)
      · exact Nat.le_refl _

theorem State.stuckDrop_length (s : State) : s.stuckDrop.relay.length ≤ s.relay.length := by
  unfold State.stuckDrop
  split
  · exact State.stuckDrops_length _ _
  · exact Nat.le_refl _

theorem State.downNext_length (s : State) : s.downNext.relay.length ≤ s.relay.length := by
  unfold State.downNext
  split
  · exact Nat.le_refl _
  · split
    · simp [*]
    · exact Nat.le_refl _

/-- R26: an entry joins a queue that is not full, so the queue never holds more than 32. -/
theorem State.joined_length (v : Byte) (m : Marker) (s : State) (h : s.relay.length ≤ 32) :
    (s.joined v m).relay.length ≤ 32 := by
  unfold State.joined
  split
  · split
    · exact Nat.le_trans (State.abandon_length _ s) h
    · have hf : s.relay.length < 32 := by simpa [State.relayFull] using ‹¬ s.relayFull = true›
      unfold State.enqueue
      dsimp only
      split
      · exact Nat.le_trans (State.downNext_length _) (by simpa using hf)
      · exact Nat.le_trans (State.stuckDrop_length _) (by simpa using hf)
  · exact h

theorem State.joinDown_length (v : Byte) (m : Marker) (s : State) (h : s.relay.length ≤ 32) :
    (s.joinDown v m).relay.length ≤ 32 := by
  simpa [State.joinDown] using State.joined_length v m s h

theorem State.relayNext_length (s : State) : s.relayNext.relay.length ≤ s.relay.length := by
  unfold State.relayNext
  split
  · exact Nat.le_refl _
  · simp [State.sendUp, *]

theorem State.joinUp_length (v : Byte) (m : Marker) (s : State) (h : s.relay.length ≤ 32) :
    (s.joinUp v m).relay.length ≤ 32 := by
  unfold State.joinUp
  split
  · exact h
  · have hf : s.relay.length < 32 := by simpa [State.relayFull] using ‹¬ s.relayFull = true›
    dsimp only
    split
    · exact Nat.le_trans (State.relayNext_length _) (by simpa using hf)
    · simpa using hf

end Sys2Proof.Machine
end

