-- ==== Sys2Proof/Safety.lean ====
section
/-!
DEFINITION. What a safe run of the bridge is: commands taken one after another, none of them an event
that the state rules out.
-/

namespace Sys2Proof.Safety

open Sys2Proof.Machine

/-- Does the step from this state answer a next state? -/
def runs (s : State) : Bool :=
  match step s with
  | .next _ => true
  | .fault _ => false
  | .refused _ => false

/-- `t` follows from `s` by some number of steps, each of which answered a next state. -/
inductive Reaches : State → State → Prop where
  | refl (s : State) : Reaches s s
  | step {s t u : State} : Reaches s t → Machine.step t = .next u → Reaches s u

/-- A state is reachable if some queue of commands, given to the part right after reset, leads to it. -/
def Reachable (t : State) : Prop :=
  ∃ commands : List Instr, Reaches { State.reset with pending := commands } t

end Sys2Proof.Safety
end

