-- ==== Sys2Proof/WellFormed.lean ====
section
/-!
DEFINITION. Which commands can stand for something that happens on the part. The operand types rule
out the rest: channels, inputs, groups, bytes and converted values are bounded by their types.
-/

namespace Sys2Proof

/-- A measured span, and the length of a low, is a length of time, so it is not zero (R3, R6). -/
def spanOk (span : Time) : Bool := decide (0 < span)

/-- A frame carries at most 16 data bytes (R10): the command code, the first index, the number and
the descriptors of WRITE_UNPACK are among them. -/
def descriptorBytesFit (descriptors : List Byte) : Bool := decide (descriptors.length + 3 ≤ 16)

/-- The well-formed commands. -/
def wellFormed : Instr → Bool
  | .rateByte _ span _ => spanOk span
  | .rateLimit _ wait => spanOk wait.elapsed
  | .framingError low => spanOk low.length
  | .downResponseFraming low => spanOk low.length
  | .downResponseBreak low => spanOk low.length
  | .writeUnpack _ _ _ _ _ descriptors => descriptorBytesFit descriptors
  | _ => true

end Sys2Proof
end

