-- ==== Sys2Proof/Tests/Slice0.lean ====
section
/-!
SUPPORT. Tests. First the smoke test of WellFormed; then single commands against the manual's own
examples and tables; then, for each statement with hypotheses, a witness that meets them, clause by
clause and at the limits that the rules name.
-/

namespace Sys2Proof.Tests

open Sys2Proof.Machine

/-! ### Well-formed commands -/

theorem test_wf_span_zero_refused : wellFormed (.rateByte 0 0 0xAA) = false := by decide
theorem test_wf_span_one_accepted : wellFormed (.rateByte 0 1 0xAA) = true := by decide
theorem test_wf_rate_limit_without_time_refused : wellFormed (.rateLimit 0 ⟨0, none⟩) = false := by decide
theorem test_wf_framing_without_low_refused : wellFormed (.framingError ⟨0, 12, 0⟩) = false := by decide
theorem test_wf_response_framing_without_low_refused :
    wellFormed (.downResponseFraming ⟨0, 12, 0⟩) = false := by decide
theorem test_wf_break_without_low_refused : wellFormed (.downResponseBreak ⟨0, 0⟩) = false := by decide
theorem test_wf_fourteen_descriptor_bytes_refused :
    wellFormed (.writeUnpack 0 .own 0 0 7 (List.replicate 14 0)) = false := by decide
theorem test_wf_thirteen_descriptor_bytes_accepted :
    wellFormed (.writeUnpack 0 .own 0 0 6 (List.replicate 13 0)) = true := by decide
theorem test_no_word_spells_a_command : decodeTableWord 8 0x01 = none := rfl
theorem test_fetch_word_changes_nothing : State.reset.withFetchWord 8 1 = State.reset := rfl

/-! ### Small states -/

/-- A field of the state after a command, where the command is taken. -/
def after {α : Type} (f : State → α) (c : Instr) (s : State) : Option α :=
  match exec c s with
  | .next t => some (f t)
  | _ => none

/-- The refusal of a command, where it is refused. -/
def refusal (c : Instr) (s : State) : Option Refusal :=
  match exec c s with
  | .refused r => some r
  | _ => none

/-- Station 3, as reset otherwise. -/
def base : State := { State.reset with mgmt := { State.reset.mgmt with station := some 3 } }

/-- A frame context with a measured Tbit of 100 µs, as in case A of the rate byte examples. -/
def context (state : FcState) : FrameContext :=
  { FrameContext.reset with state := state, span := some 8400, id := 1 }

/-- The part in the middle of a frame. -/
def inFrame (fc : FrameContext) : State := { base with fc := fc, frames := 1 }

/-- The nominal Tbit at 9,600 bit/s, in twelfths of a µs (0.3). -/
def nominal : Time := 1250

/-- A low since moment 0. -/
def low : LowTimer := { since := 0, tbit := nominal }

/-- The part with a low on UP. -/
def lowOn (s : State) : State := { s with up := { s.up with rx := .lowSeen low } }

/-- The part with a byte under way on UP. -/
def withByte (b : StartEdge) (rx : Rx) (s : State) : State := { s with up := { s.up with rx := rx, start := some b } }

/-- A byte whose start cell has been read. -/
def byteFrom (edge : Time) (falls : List Time) : StartEdge := { edge := edge, read := true, falls := falls }

theorem byte_stands (dt edge : Time) (falls : List Time) (rx : Rx) (s : State) :
    Claims.standing dt (withByte (byteFrom edge falls) rx s) (byteFrom edge falls) := ⟨rfl, .inl rfl⟩

theorem only_byte_stands {P : StartEdge → Prop} {dt : Time} {b : StartEdge} {rx : Rx} {s : State} (h : P b) :
    ∀ b', Claims.standing dt (withByte b rx s) b' → P b' := by
  rintro b' ⟨hb, -⟩
  cases hb
  exact h

/-- The part with a port condition on DOWN for frame 1. -/
def downAt (state : DownState) (cur : Option RelayEntry) (s : State) : State :=
  { s with down := { s.down with state := state, cur := cur, tbit := nominal, frame := 1, addr := 7 } }

/-- A relay entry of frame 1. -/
def entry (marker : Marker) : RelayEntry := { value := 0x25, marker := marker, frame := 1 }

/-- A channel of a mode, as reset otherwise. -/
def channel (mode : ChanMode) : Channel := { Channel.reset with config := { ChanConfig.reset with mode := mode } }

/-- Channel D0 as given, and group G0 in a state. -/
def driving (c : Channel) (state : GroupState) : State :=
  { base with
    chans := base.chans.set 0 c,
    groups := base.groups.set 0 { GroupRec.reset with state := state } }

/-- An entry of a role, forwarding DOWN. -/
def tagEntry (role : Role) : TagEntry := { TagEntry.reset with role := role }

/-- The copy of an entry of a role. -/
def copyOf (role : Role) : EntryCopy := { entry := tagEntry role, unpack := [], generation := 0 }

/-! ### The manual's examples -/

-- 1.5, rate byte examples: 700 µs is 8400 twelfths, 630 µs is 7560, 728 µs is 8736, 816.67 µs is 9800
theorem test_rate_byte_A :
    after (fun t => (t.fc.state, t.fc.span)) (.rateByte 8400 8400 0xAA) (inFrame { context .rate with span := none })
      = some (.address, some 8400) := by decide
theorem test_rate_byte_B :
    after (fun t => (t.fc.outcome, t.up.counts.rate)) (.rateByte 7560 7560 0xAA)
      (inFrame { context .rate with span := none }) = some (some .rate, 1) := by decide
theorem test_rate_limit_C :
    after (fun t => (t.fc.outcome, t.up.counts.rate)) (.rateLimit 9800 ⟨9800, none⟩)
      (inFrame { context .rate with span := none }) = some (some .rate, 1) := by decide
theorem test_rate_byte_D :
    after (fun t => (t.fc.outcome, t.up.counts.format)) (.rateByte 8736 8736 0x2A)
      (inFrame { context .rate with span := none }) = some (some .format, 1) := by decide

-- R12's example: 70, 66, 200 and 17 sum to 353, so the check byte is 158
theorem test_check_byte_example :
    after (fun t => (t.fc.outcome, t.up.counts.framesOk)) (.checkByte 0 158)
      (inFrame { context .check with head := some (.tagged .mark 6), sum := 70 + 66 + 200 + 17, noLocal := true })
      = some (some .complete, 1) := by decide
theorem test_check_byte_wrong :
    after (fun t => (t.fc.outcome, t.up.counts.check)) (.checkByte 0 157)
      (inFrame { context .check with head := some (.tagged .mark 6), sum := 70 + 66 + 200 + 17, noLocal := true })
      = some (some .check, 1) := by decide

/-- 3.5's example: tag 5 is a CONSUME entry whose record holds sequence 3, accepted once. -/
def tagFive : State :=
  { base with
    fc := { context .check with
      head := some (.tagged .put 5), copy := some { copyOf .consume with generation := 1 }, seq := some 3 },
    tags := { base.tags with
      runtime := base.tags.runtime.set 5 { lastSeq := some 3, accepted := 1, lastGeneration := some 1 } } }

-- 3.5, rows 3 and 6 of the example
theorem test_put_repeat :
    after (fun t => (t.tags.runtime[(5 : Tag)].accepted, t.up.counts.repeats)) (.checkByte 0 0xFF) tagFive
      = some (1, 1) := by decide
theorem test_put_next_sequence :
    after (fun t => (t.tags.runtime[(5 : Tag)].lastSeq, t.tags.runtime[(5 : Tag)].accepted)) (.checkByte 0 0xFF)
      { tagFive with fc := { tagFive.fc with seq := some 4 } } = some (some 4, 2) := by decide

/-- 5.9's example: tick 10 µs, P = 100; D0 is WIDTH with setpoint 30 and delay 20, D1 follows it. -/
def widthAndFollow : State :=
  { driving { channel .width with active := { setpoint := 30, delay := 20 } } .run with
    cycle := { CycleCounter.resetAt 0 with period := 100, mode := .marked, number := 7 },
    chans := (base.chans.set 0 { channel .width with active := { setpoint := 30, delay := 20 } }).set 1
      { Channel.reset with
        config := { ChanConfig.reset with mode := .follow, polarity := .activeLow, leader := some 0 },
        active := { setpoint := 45, delay := 10 } } }

-- 5.9, times 20 and 50, and just before 100 (one tick of 10 µs is 120 twelfths)
theorem test_width_phase_begins :
    after (fun t => (t.drivePin 0, t.drivePin 1)) (.widthPhaseStart (20 * 120) 0) widthAndFollow
      = some (.high, .high) := by decide
theorem test_width_phase_end_starts_the_follower :
    after (fun t => (t.chans[(0 : Chan)].phase, t.chans[(1 : Chan)].shot)) (.widthPhaseEnd (50 * 120) 0)
      { widthAndFollow with chans := widthAndFollow.chans.set 0 { widthAndFollow.chans[(0 : Chan)] with phase := true } }
      = some (false, .waiting 10 45 6000) := by decide
theorem test_wrap_not_due : exec (.wrap (100 * 120 - 1)) widthAndFollow = .refused .notDue := rfl

/-- 8.8's example: SETTLED, scan list A1, A0, A1, source CYCLE; A1 has the window 100 to 800. -/
def scanning (scan : Scan) : State :=
  { base with sampler := { Sampler.reset with
      mode := .settled, list := [1, 0, 1], source := some .cycle, scan := scan,
      inputs := (Sampler.reset.inputs.set 0 { Analog.reset with value := 512, valid := true, seq := 9 }).set 1
        { Analog.reset with value := 780, valid := true, seq := 20, low := 100, high := 800, trip := 0b0010 } } }

-- 8.8, times 30, 50 and 64, and the value of time 92 (50 µs is 600 twelfths, 14 µs is 168)
theorem test_sample_now_busy :
    after (fun t => (t.mgmt.reply.result, t.mgmt.reply.data, t.sampler.overrun)) (.sampleNow 360 .own 0)
      (scanning (.settling 0)) = some (some .state, [3], 1) := by decide
theorem test_settling_ends :
    after (fun t => t.sampler.scan) (.settlingEnd 600) (scanning (.settling 0)) = some (.converting 0 600) := by
  decide
theorem test_conversion_within :
    after (fun t => (t.sampler.scan, t.sampler.inputs[(1 : AnIn)].value, t.sampler.inputs[(1 : AnIn)].seq))
      (.conversionEnd 168 790) (scanning (.converting 0 0)) = some (.converting 1 168, 790, 21) := by decide
theorem test_value_above_the_limit :
    (scanning (.converting 2 0)).sampler.inputs[(1 : AnIn)].outsideSide 812 = some .limitHigh := by decide
theorem test_value_on_the_limit :
    (scanning (.converting 2 0)).sampler.inputs[(1 : AnIn)].outsideSide 800 = none := by decide

/-- 12.6's example: two entries in the queue. -/
def twoEvents : State :=
  { base with events := {
      queue := [{ stamp := 12, code := .fallback, subject := .group 1, cycle := 44, detail := .cause .hold false },
                { stamp := 13, code := .lineBack, subject := .port .up, cycle := 45, detail := .none }],
      nextStamp := 14, lost := 0 } }

-- 12.6: the sixteen bytes of the reply
theorem test_event_read_example :
    after (fun t => replyRecordBytes t.mgmt.reply) (.eventRead 0 .own 5) twoEvents
      = some [0x00, 0x50, 0x05, 0x02, 0x00, 0x00, 0x0C, 0x0A, 0x11, 0x2C, 0x01,
              0x0D, 0x02, 0x00, 0x2D, 0xFF] := by decide
theorem test_event_ack :
    after (fun t => (t.events.queue.length, t.mgmt.reply.data)) (.eventAck 0 .own 5 12) twoEvents
      = some (1, [1, 1]) := by decide

/-! ### Rows by their rules -/

-- R174 and 12.5
theorem test_ping : after (fun t => t.mgmt.reply.data) (.ping 0 .own 0) base = some [0xB6, 3, 1, 0, 0] := by decide
-- R164
theorem test_straps_fifteen_leave_unassigned :
    after (fun t => t.mgmt.station) (.resetRelease 0 15 false false) State.reset = some none := by decide
theorem test_straps_fourteen :
    after (fun t => t.mgmt.station) (.resetRelease 0 14 false false) State.reset = some (some 14) := by decide
-- R176: an own ASSIGN_STATION is refused with STATE
theorem test_assign_own_refused :
    after (fun t => (t.mgmt.reply.result, t.mgmt.reply.data)) (.assignStation 0 .own 0 7) base
      = some (some .state, [3]) := by decide
-- R191: 4097 is out of range, and the period's first byte is data byte 2
theorem test_config_cycle_period_too_long :
    after (fun t => (t.mgmt.reply.result, t.mgmt.reply.data)) (.configCycle 0 .own 0 0 0x10 0x01 0) base
      = some (some .badOperand, [2]) := by decide
theorem test_config_cycle_longest_period : firstFault (configCycleChecks 0 0x10 0x00 0) = none := by decide
-- R51, step 2
theorem test_write_tag_publish_down :
    after (fun t => (t.mgmt.reply.result, t.mgmt.reply.data)) (.writeTag 0 .own 0 9 3 1 0xFF 0 0 0 0 0 0) base
      = some (some .badEntry, [9]) := by decide
-- R153: a map of eight one-byte items has size 8; one that runs past the list is refused
theorem test_pubmap_eight_constants :
    after (fun t => t.mgmt.reply.data) (.writePubmap 0 .own 0 7 24 8) base = some [7, 8] := by decide
theorem test_pubmap_beyond_the_list :
    after (fun t => (t.mgmt.reply.result, t.mgmt.reply.data)) (.writePubmap 0 .own 0 7 25 8) base
      = some (some .badOperand, [3]) := by decide

-- R5 and R17: a short low in a frame ends as what it is, and nothing is counted
theorem test_short_low_in_a_frame :
    after (fun t => (t.up.rx, t.fc.state, t.up.counts.stray)) (.strayLow 600) (lowOn (inFrame (context .data)))
      = some (.idle, .data, 0) := by decide
-- R5 and R13: a start cell of 1200 that reads high at 600 does not meet the window, and one that reads low does
theorem test_false_start_ends_with_gap :
    (after (fun t => t) (.upLowSeen 100) (inFrame (context .data))).bind (fun s =>
      (after (fun t => t) (.strayLow 500) s).bind (fun s =>
        after (fun t => (t.fc.outcome, t.up.rx)) (.gapError ⟨3600, none⟩) s)) = some (some .gap, .idle) := by
  decide
theorem test_start_edge_in_the_window_keeps_the_frame :
    ((after (fun t => t) (.upLowSeen 100) (inFrame (context .data))).bind (fun s =>
      after (fun t => t) (.strayLow 1200) s)).map (refusal (.gapError ⟨3600, none⟩))
      = some (some .notDue) := by decide
-- R5 and R13: a byte with a low stop cell whose start edge came after the limit of 4200
theorem test_framing_of_a_late_byte_is_refused :
    refusal (.framingError ⟨15601, 11400, 600⟩) (inFrame (context .data)) = some .overdue := by decide
theorem test_framing_of_a_byte_in_time :
    after (fun t => (t.fc.outcome, t.up.counts.framing)) (.framingError ⟨15600, 11400, 600⟩)
      (inFrame (context .data)) = some (some .framing, 1) := by decide
-- R5: a short low over the stop-cell centre, 11400 after the start edge, ends its byte with FRAMING
theorem test_stray_low_over_the_stop_cell :
    refusal (.strayLow 11500) (withByte (byteFrom 100 []) (.lowSeen { low with since := 100 }) (inFrame (context .data)))
      = some .overdue := by decide
-- R7: a low from the opening edge has no fourth edge, so that the rate step fails before the stop cell
theorem test_framing_of_a_low_from_the_opening_edge :
    refusal (.framingError ⟨13750, 13750, 13750⟩) (inFrame { context .rate with span := none })
      = some .outOfPlace := by decide
theorem test_abort_of_a_low_from_the_opening_edge :
    refusal (.frameAbort 16250) (withByte (byteFrom 0 []) (.lowSeen low) (inFrame { context .rate with span := none }))
      = some .overdue := by decide
-- R13: a low that begins after the limit of 4200 comes after the GAP error
theorem test_abort_of_a_late_low :
    refusal (.frameAbort 20451) (withByte (byteFrom 4201 []) (.lowSeen { low with since := 4201 })
      (inFrame (context .data))) = some .overdue := by decide
theorem test_abort_of_a_low_in_time :
    after (fun t => t.fc.outcome) (.frameAbort 20450) (withByte (byteFrom 4200 []) (.lowSeen { low with since := 4200 })
      (inFrame (context .data))) = some (some .aborted) := by decide
-- R13 and R14: a start edge exactly at its limit, of a byte whose stop-cell centre lies between two twelfths: 3750
-- + 11401.4 for a rate byte, 4201 + 11402.7 for a data byte, 12603 + 11402.7 for the first byte of a response
theorem test_rate_byte_at_its_limit :
    after (fun t => t.fc.span) (.rateByte 15152 8401 0xAA)
      (withByte (byteFrom 3750 [5000, 9000, 12151]) .idle (inFrame { context .rate with span := none }))
      = some (some 8401) := by decide
theorem test_data_byte_at_its_limit :
    after (fun t => t.fc.data) (.dataByte 15604 0x25)
      (withByte (byteFrom 4201 []) .idle (inFrame { context .data with span := some 8402, count := some 3 }))
      = some [0x25] := by decide
theorem test_response_byte_at_its_limit :
    after (fun t => t.fc.data) (.dataByte 24006 0x25) (withByte (byteFrom 12603 []) .idle
      (inFrame { context .data with span := some 8402, count := some 3, answer := some .listen }))
      = some [0x25] := by decide
theorem test_data_byte_past_its_limit :
    refusal (.dataByte 15605 0x25) (inFrame { context .data with span := some 8402, count := some 3 })
      = some .overdue := by decide
-- R3 and R28: a low under way on DOWN when the relay is given up is timed from its falling edge
theorem test_low_across_an_up_conflict_is_a_break :
    (after (fun t => t) (.upConflict 10000)
      (downAt .receive none (inFrame { context .relayResponse with relay := some .live }))).bind (fun s =>
      (after (fun t => t) (.foreignLow ⟨0, 7500⟩) s).bind (fun s =>
        after (fun t => (t.down.state, t.down.counts.foreign)) (.downBreak 10000) s)) = some (.idle, 1) := by
  decide
-- R41 and R30: the END byte of an abandoned frame is sent whole and not counted
theorem test_abandoned_end_is_not_counted :
    after (fun t => (t.down.state, t.down.counts.framesOk)) (.downByteSent 12500)
      (let s := downAt .sending (some (entry .ending)) base
       { s with down := { s.down with abandoned := true } }) = some (.idle, 0) := by decide
-- R63: the expiry that meets a pass comes after it, with a limit of 5 (50 ms are 600000 twelfths)
theorem test_expiry_meets_a_pass :
    (after (fun t => t) (.ping 600000 .own 0) { base with
      up := { base.up with quiet := .running }, mgmt := { base.mgmt with quietLimit := 5 } }).bind
      (fun s => after (fun t => (t.up.quiet, t.events.queue.map fun e => e.code)) (.lineQuiet 0) s)
      = some (.running, [.lineQuiet, .lineBack]) := by decide
-- R129: a pin change at the moment of a configuration that came first gives no edge
theorem test_pin_change_after_configuration :
    (after (fun t => t) (.configCapture 0 .own 0 0 4 0 0) base).bind
      (fun s => after (fun t => (t.caps[(0 : CapIn)].running, t.caps[(0 : CapIn)].filtered))
        (.capturePinChange 0 0 .high) s) = some (0, some .high) := by decide
-- R124: after 65535 tick lengths the overflow comes before the closing edge
theorem test_edge_after_the_overflow_is_refused :
    exec (.capturePinChange (65535 * 120 + 1) 0 .high)
      { base with caps := base.caps.set 0 { Capture.resetAt .low with
          mode := .low, filtered := some .low, measure := .timing 0 } } = .refused .overdue := by rfl
-- R80 and R92: while RESET is low nothing is counted and no channel keeps running state
theorem test_reset_low_holds_the_count :
    after (fun t => (t.count, t.chans[(0 : Chan)].ignored)) (.resetAssert 1200)
      (driving { channel .width with ignored := 3 } .run) = some (0, 0) := by decide

/-! ### Witnesses: the step, the RESET pin, and the line -/

theorem witness_StepTakesTheFrontCommand : State.reset.pending = [] := rfl

theorem witness_EveryCommandKeepsQueueTimeAndStraps :
    (∃ t, exec (.strayLow 0) (lowOn base) = .next t) ∧
    (∀ dt straps up down, Instr.strayLow 0 ≠ .resetRelease dt straps up down) ∧
    ∀ dt, Instr.strayLow 0 ≠ .resetAssert dt :=
  ⟨⟨_, rfl⟩, fun _ _ _ _ h => (by cases h), fun _ h => (by cases h)⟩

theorem witness_ResetLowHoldsThePart :
    base.inReset = false ∧
    ({ base with inReset := true } : State).inReset = true ∧
    (∀ dt straps up down, Instr.wrap 0 ≠ .resetRelease dt straps up down) ∧
    ∀ dt k l, Instr.wrap 0 ≠ .capturePinChange dt k l :=
  ⟨rfl, rfl, fun _ _ _ _ h => (by cases h), fun _ _ _ h => (by cases h)⟩

theorem witness_LowsOnUpAreTimedAndSorted :
    (base.inReset = false ∧ base.up.rx = .idle ∧ base.fc.state ≠ .responding ∧ base.fc.state ≠ .relayResponse) ∧
    ((∃ l, (lowOn (inFrame (context .data))).up.rx = .lowSeen l) ∧
      (inFrame (context .data)).fc.state ∈ [FcState.rate, .address, .length, .data, .check]) ∧
    ((lowOn base).fc.state = .done ∧ (lowOn base).up.rx = .lowSeen low ∧
      base.now + (13 * nominal - 1) - low.since < 13 * low.tbit ∧
      13 * low.tbit ≤ base.now + 13 * nominal - low.since ∧
      base.now + 200 * nominal - low.since ≤ 200 * low.tbit ∧
      200 * low.tbit < base.now + (200 * nominal + 1) - low.since) ∧
    ((lowOn (inFrame (context .data))).up.rx = .lowSeen low ∧ (lowOn (inFrame (context .data))).inReset = false) ∧
    -- a byte that is still read at its stop-cell centre, and one that has ended
    (let s := withByte (byteFrom 100 []) (.lowSeen low) (inFrame (context .data))
     (∀ b, Claims.standing 11500 s b → Claims.readOn 11500 s b) ∧
     (∃ b, Claims.standing 11501 s b ∧ ¬Claims.readOn 11501 s b) ∧
     -- a low that ends before the centre, and one that covers it
     (∀ b, Claims.standing 11499 s b → Claims.readOn 11499 s b ∧ ¬Claims.covers 11499 s b low.since) ∧
     (∃ b, Claims.standing 11500 s b ∧ ¬(Claims.readOn 11500 s b ∧ ¬Claims.covers 11500 s b low.since)) ∧
     s.now + 11500 - low.since < 13 * low.tbit) := by
  refine ⟨⟨rfl, rfl, by decide, by decide⟩, ⟨⟨_, rfl⟩, by decide⟩,
    ⟨rfl, rfl, by decide, by decide, by decide, by decide⟩, ⟨rfl, rfl⟩, ?_⟩
  have reads (dt : Nat) (h : dt ≤ 11500) : Claims.readOn dt
      (withByte (byteFrom 100 []) (.lowSeen low) (inFrame (context .data))) (byteFrom 100 []) := by
    refine ⟨by decide, fun h => (by cases h), fun n hn => ?_⟩
    cases hn
    have : 14 * (0 + dt - 100) ≤ 19 * 8400 := by omega
    exact this
  refine ⟨only_byte_stands (reads _ (by decide)),
    ⟨_, byte_stands .., fun h => absurd (h.2.2 8400 rfl) (by decide)⟩,
    only_byte_stands ⟨reads _ (by decide), ?_⟩,
    ⟨_, byte_stands .., fun h => h.2 ⟨8400, rfl, by decide, by decide⟩⟩, by decide⟩
  rintro ⟨n, hn, -, h⟩
  cases hn
  exact absurd h (by decide)

theorem witness_RateByteSpanAndValueAreChecked :
    let s := inFrame { context .rate with span := none }
    s.inReset = false ∧ s.fc.state = .rate ∧ s.fc.relay = none ∧ s.up.rx ≠ .stuck ∧
    s.now + 11449 - s.fc.ref ≤ 3 * s.mgmt.rate.tbit + 7699 ∧
    100 * (s.now + 13550 - s.fc.ref) ≤ 1084 * s.mgmt.rate.tbit ∧
    (14 * (s.now + 15625 - s.fc.ref) < 42 * s.mgmt.rate.tbit + 19 * 8750 + 14 ∧
      ¬14 * (s.now + 15626 - s.fc.ref) < 42 * s.mgmt.rate.tbit + 19 * 8750 + 14) ∧
    (100 * 7699 < 616 * s.mgmt.rate.tbit ∧ ¬100 * 7700 < 616 * s.mgmt.rate.tbit ∧
      ¬784 * s.mgmt.rate.tbit < 100 * 9800 ∧ 784 * s.mgmt.rate.tbit < 100 * 9801) ∧
    -- falling edges that rows have shown: an early fourth edge at the row's moment, one before it, one that has
    -- not come, and one in time
    Claims.RateByteFits 7799 7699 (withByte (byteFrom 100 [1000, 2000]) .idle s) ∧
    Claims.RateByteFits 7900 7699 (withByte (byteFrom 100 [1000, 2000, 7799]) (.lowSeen low) s) ∧
    Claims.RateByteFits 9900 9801 (withByte (byteFrom 100 [1000, 2000]) .idle s) ∧
    Claims.RateByteFits 11975 8750 (withByte (byteFrom 100 [1000, 2000, 8850]) .idle s) := by
  refine ⟨rfl, rfl, rfl, by decide, by decide, by decide, by decide, by decide, ?_, ?_, ?_, ?_⟩
  · exact only_byte_stands ⟨by decide, .inr ⟨rfl, rfl, rfl⟩⟩
  · exact only_byte_stands ⟨by decide, .inl rfl⟩
  · exact only_byte_stands ⟨by decide, rfl, by decide⟩
  · exact only_byte_stands ⟨by decide, rfl, by decide, fun low h => (by cases h)⟩

theorem witness_LineErrorsEndTheFrame :
    let s := inFrame (context .data)
    let w := inFrame { context .data with answer := some .listen }
    let r := inFrame { context .rate with span := none }
    (s.inReset = false ∧ s.fc.state ∈ [FcState.rate, .address, .length, .data, .check] ∧ s.up.rx ≠ .stuck ∧
      (lowOn s).up.rx = .lowSeen low ∧ 13 * low.tbit ≤ s.now + 13 * nominal - low.since) ∧
    -- a stop cell of a data byte whose start edge came at the limit, and one of a rate byte
    (2 * (s.now + 15600 - 11400 - s.fc.ref) ≤ s.fc.span.getD 0 ∧ 600 < 13 * s.mgmt.rate.tbit ∧
      19 * s.fc.span.getD 0 ≤ 14 * 11400 ∧ 14 * (11400 - 600) ≤ 19 * s.fc.span.getD 0) ∧
    (616 * r.mgmt.rate.tbit ≤ 100 * 7700 ∧ 100 * 7700 ≤ 784 * r.mgmt.rate.tbit ∧ 7700 ≤ 10450 - 2750 ∧
      19 * 7700 ≤ 14 * 10450 ∧ 14 * (10450 - 2750) ≤ 19 * 7700 ∧ 2750 < 13 * r.mgmt.rate.tbit ∧
      2 * (r.now + 14200 - 10450 - r.fc.ref) ≤ 6 * r.mgmt.rate.tbit) ∧
    (∀ b, Claims.standing 14200 (withByte (byteFrom 3750 [4000, 5000, 11450]) .idle r) b →
      b.edge + 10450 = r.now + 14200 ∧ Claims.seven r b = some 7700) ∧
    -- a low of break length that cuts a byte, one that began too late, and one from the opening edge
    (let t (edge : Time) := withByte (byteFrom edge []) (.lowSeen { low with since := edge }) s
     (∀ b, Claims.standing 20450 (t 4200) b → Claims.startInTime (t 4200) b ∧
       Claims.rateHolds 20450 (t 4200) b ∧ Claims.covers 20450 (t 4200) b 4200) ∧
     (∃ b, Claims.standing 20451 (t 4201) b ∧ ¬Claims.startInTime (t 4201) b)) ∧
    (∃ b, Claims.standing 16250 (withByte (byteFrom 0 []) (.lowSeen low) r) b ∧
      ¬Claims.rateHolds 16250 (withByte (byteFrom 0 []) (.lowSeen low) r) b) ∧
    -- windows that fail, with no start edge, and with one that stands
    (s.up.start = none ∧ (∀ b : StartEdge, s.up.start ≠ some b) ∧
      ¬(s.fc.answer = some .listen ∧ s.fc.data = []) ∧ s.fc.span.getD 0 ≤ 2 * (s.now + 4200 - s.fc.ref) ∧
      s.fc.span.getD 0 < 2 * (s.now + 4800 - 500 - s.fc.ref)) ∧
    Claims.stands 4200 s (byteFrom 100 []) ∧
    (r.fc.state = .rate ∧ 6 * r.mgmt.rate.tbit ≤ 2 * (r.now + 3750 - r.fc.ref)) ∧
    (w.fc.answer = some .listen ∧ w.fc.data = [] ∧ 3 * w.fc.span.getD 0 ≤ 2 * (w.now + 12600 - w.fc.ref)) ∧
    (784 * r.mgmt.rate.tbit ≤ 100 * 9800 ∧ 9800 ≤ r.now + 9800 - r.fc.ref ∧
      r.now + 13550 - r.fc.ref ≤ 3 * r.mgmt.rate.tbit + 9800) := by
  refine ⟨⟨rfl, by decide, by decide, rfl, by decide⟩, by decide, by decide,
    only_byte_stands ⟨rfl, rfl⟩, ⟨only_byte_stands ⟨by decide, fun h => (by cases h), 8400, rfl, by decide, by decide⟩,
      ⟨_, byte_stands .., by decide⟩⟩,
    ⟨_, byte_stands .., fun h => absurd (show 100 * 16250 ≤ 784 * 1250 from h rfl) (by decide)⟩,
    ⟨rfl, fun _ h => (by cases h), by decide, by decide, by decide⟩, .inl rfl, ⟨rfl, by decide⟩,
    ⟨rfl, rfl, by decide⟩, by decide, by decide, by decide⟩

/-! ### Witnesses: the bytes of a frame -/

/-- The last moment of a byte: its start edge 3 measured Tbit after the byte before it (R13). -/
def lastMoment : Time := 15600

theorem onTime_context (state : FcState) : Claims.onTime lastMoment (inFrame (context state)) :=
  ⟨by cases state <;> decide, fun _ h => (by cases h.1)⟩

theorem late_context (state : FcState) : ¬Claims.onTime (lastMoment + 1) (inFrame (context state)) :=
  fun h => absurd h.1 (by cases state <;> decide)

/-- A byte whose start edge a row has shown completes at its stop-cell centre. -/
theorem onTime_shown : Claims.onTime lastMoment (withByte (byteFrom 4200 []) .idle (inFrame (context .data))) :=
  ⟨by decide, only_byte_stands ⟨by decide, by decide, fun _ h => (by cases h)⟩⟩

theorem witness_AddressByteSettlesTheForwarding :
    let s := inFrame (context .address)
    s.inReset = false ∧ s.fc.state = .address ∧ s.up.rx ≠ .stuck ∧ Claims.onTime lastMoment s ∧
    (14 : Fin 16) ≠ 15 ∧ 223 ≤ (0xDF : Byte).toNat ∧ 223 ≤ (0xFF : Byte).toNat :=
  ⟨rfl, rfl, by decide, onTime_context _, by decide, by decide, by decide⟩

theorem witness_LengthByteSettlesTheFrame :
    let put := inFrame { context .length with head := some (.tagged .put 5) }
    let reply (forward : FrameForward) := inFrame { context .length with
      head := some (.mgmt .reply 3), forward := some forward }
    let get (role : Role) := inFrame { context .length with
      head := some (.tagged .get 5), copy := some (copyOf role) }
    (put.inReset = false ∧ put.fc.state = .length ∧ put.up.rx ≠ .stuck ∧ Claims.onTime lastMoment put ∧
      ∃ tag, put.fc.head = some (.tagged .put tag)) ∧
    (Claims.onTime lastMoment (reply .none) ∧ (reply .none).fc.forward = some .none ∧
      (reply .down).fc.forward ≠ some .none) ∧
    (get .publish).fc.copy = some (copyOf .publish) ∧ (copyOf .publish).entry.role = .publish ∧
      (copyOf .relay).entry.role ≠ .publish ∧
    (∃ tag, (get .publish).fc.head = some (.tagged .get tag)) ∧ 16 < (17 : Fin 32).val :=
  ⟨⟨rfl, rfl, by decide, onTime_context .length, 5, rfl⟩, ⟨onTime_context .length, rfl, by decide⟩, rfl, rfl, by decide,
    ⟨5, rfl⟩, by decide⟩

theorem witness_DataByteIsAppendedAndForwarded :
    let s := inFrame (context .data)
    let held := inFrame { context .data with forward := some .pending }
    let free : State := { held with mgmt := { held.mgmt with station := none } }
    let mask := inFrame { context .data with head := some (.tagged .mark 9), data := [20] }
    (s.inReset = false ∧ s.fc.state = .data ∧ s.up.rx ≠ .stuck ∧ Claims.onTime lastMoment s) ∧
    ((∃ tag, mask.fc.head = some (.tagged .mark tag)) ∧ mask.fc.data.length = 1 ∧ 16 ≤ (16 : Byte).toNat ∧
      ¬16 ≤ (15 : Byte).toNat) ∧
    s.fc.forward ≠ some .pending ∧ held.fc.forward = some .pending ∧ free.mgmt.station = none ∧
    ¬(held.mgmt.station = none ∧ (0x06 : Byte) = 0x06) ∧ ¬(free.mgmt.station = none ∧ (0x08 : Byte) = 0x06) :=
  ⟨⟨rfl, rfl, by decide, onTime_context _⟩, ⟨⟨_, rfl⟩, rfl, by decide, by decide⟩, by decide, rfl, rfl, by decide, by decide⟩

theorem witness_CheckByteDecidesAndExecutes :
    let s := inFrame { context .check with sum := 97, noLocal := true }
    let c := inFrame { context .check with
      head := some (.mgmt .command 3), seq := some 2, forward := some .none, data := [0x01] }
    let other := inFrame { context .check with head := some (.mgmt .command 4), forward := some .down }
    let reply := inFrame { context .check with head := some (.mgmt .reply 4) }
    (s.inReset = false ∧ s.fc.state = .check ∧ s.up.rx ≠ .stuck ∧ Claims.onTime lastMoment s ∧
      (157 : Byte) ≠ 255 - s.fc.sum ∧ (158 : Byte) = 255 - s.fc.sum ∧ s.fc.noLocal = true) ∧
    (∃ n, other.fc.head = some (.mgmt .command n) ∧ n ≠ 15 ∧ other.fc.forward ≠ some .none) ∧
    (∃ n, reply.fc.head = some (.mgmt .reply n)) ∧
    (c.fc.head = some (.mgmt .command 3) ∧ c.fc.seq = some 2 ∧ c.fc.noLocal = false ∧
      c.fc.forward = some .none ∧ Claims.onTime lastMoment c) :=
  ⟨⟨rfl, rfl, by decide, onTime_context .check, by decide, by decide, rfl⟩, ⟨4, rfl, by decide, by decide⟩,
    ⟨4, rfl⟩, rfl, rfl, rfl, rfl, onTime_context .check⟩

theorem witness_PassingTagFrameIsJudged :
    (tagFive.inReset = false ∧ tagFive.fc.state = .check ∧ tagFive.up.rx ≠ .stuck ∧
      Claims.onTime lastMoment tagFive ∧ tagFive.fc.head = some (.tagged .put 5) ∧
      tagFive.fc.seq = some 3 ∧ tagFive.fc.noLocal = false) ∧
    ((copyOf .consume).entry.role = .consume ∧ tagFive.tags.runtime[(5 : Tag)].lastSeq = some 3 ∧
      tagFive.tags.runtime[(5 : Tag)].lastSeq ≠ some 4) ∧
    (copyOf .block).entry.role = .block ∧ (copyOf .marker).entry.role = .marker :=
  ⟨⟨rfl, rfl, by decide, onTime_context .check, rfl, rfl, rfl⟩, ⟨rfl, rfl, by decide⟩, rfl, rfl⟩

/-! ### Witnesses: relay, responses, the DOWN port -/

theorem witness_HeadSentByteJoinsTheRelayQueue :
    let s := inFrame { context .data with relay := some .live }
    let waits := downAt .sending none s
    let full : State := { s with relay := List.replicate 32 (entry .body) }
    base.fc.relay ≠ some .live ∧
    (s.fc.relay = some .live ∧ s.relay.length < 32 ∧ s.down.state ≠ .stuck ∧
      ¬(s.down.state = .sending ∧ s.down.cur = none)) ∧
    (waits.relay = [] ∧ waits.down.state = .sending ∧ waits.down.cur = none ∧ waits.down.frame = waits.fc.id) ∧
    32 ≤ full.relay.length ∧
    (let stuck := downAt .stuck none s
     stuck.relay = [] ∧ stuck.down.state = .stuck ∧
      ∀ e, (stuck.relay ++ [entry .body]).head? = some e → e.marker ≠ .opening) := by
  refine ⟨by decide, by decide, by decide, by decide, rfl, rfl, fun e h => ?_⟩
  cases h; decide

theorem witness_AbandonedRelayLeavesTheQueue :
    let s := inFrame { context .relayResponse with relay := some .live }
    s.fc.id ≠ 2 ∧ s.fc.id = 1 ∧ (inFrame (context .data)).fc.state ≠ .relayResponse ∧
    s.fc.state = .relayResponse ∧ base.down.state ∈ [DownState.idle, .foreignLow, .stuck] ∧
    (downAt .rate none s).down.frame = 1 ∧
    (downAt .rate none s).down.state ∈ [DownState.sendingBreak, .rate] ∧
    (downAt .sending (some (entry .body)) s).down.cur ≠ none ∧
    (downAt .listen none s).down.state ∈ [DownState.delimiter, .listen, .receive] ∧
    (downAt .sending none s).down.cur = none := by
  decide

/-- The bridge sends a response on UP; the byte in progress began at moment 0. -/
def sending (state : FcState) (marker : Marker) (resp : List Byte) : State :=
  { inFrame { context state with head := some (.tagged .get 5), copy := some (copyOf .publish) } with
    up := { base.up with
      tx := some { value := 0x11, marker := marker, since := 0, span := 8400 }, resp := resp } }

theorem witness_ResponsesAreSentByteByByte :
    let s := inFrame (context .responding)
    let first : State := { s with up := { s.up with resp := [0x11, 0x22] } }
    let relayed := sending .relayResponse .body []
    (first.inReset = false ∧ first.fc.state = .responding ∧ first.up.resp = [0x11, 0x22] ∧ first.up.tx = none ∧
      5 * first.fc.span.getD 0 ≤ 14 * (first.now + 3000 - first.fc.ref) ∧
      ¬5 * first.fc.span.getD 0 ≤ 14 * (first.now + 2999 - first.fc.ref)) ∧
    (10 * 8400 ≤ 7 * (0 + 12000 - 0) ∧ Marker.body ≠ .ending) ∧
    (relayed.fc.state = .relayResponse ∧ relayed.up.tx ≠ none ∧
      (Marker.ending = .ending → relayed.fc.relayAgrees ≠ some true)) ∧
    relayed.upDrive = .byte 0x11 ∧ first.upDrive = .released := by
  decide

theorem witness_DeliveredResponsePassesAndIsRecorded :
    let s := sending .responding .ending []
    let relayed : State := { s with fc := { s.fc with state := .relayResponse, relayAgrees := some true } }
    let reply : State := { s with fc := { s.fc with head := some (.mgmt .reply 3) } }
    (s.inReset = false ∧ s.up.tx = some { value := 0x11, marker := .ending, since := 0, span := 8400 } ∧
      19 * 8400 ≤ 14 * (s.now + 11400 - 0) ∧ s.fc.state = .responding) ∧
    (relayed.fc.state = .relayResponse ∧ relayed.fc.relayAgrees = some true) ∧
    reply.fc.head = some (.mgmt .reply 3) ∧ s.fc.head = some (.tagged .get 5) ∧
    s.fc.copy = some (copyOf .publish) ∧ s.fc.noLocal = false ∧
    ({ relayed.fc with noLocal := true } : FrameContext).noLocal = true := by
  decide

theorem witness_UpConflictEndsTheResponse :
    let s := sending .responding .body []
    base.inReset = false ∧ (sending .relayResponse .body []).fc.state = .relayResponse ∧
    s.fc.state = .responding ∧ s.fc.head = some (.tagged .get 5) ∧ s.fc.copy = some (copyOf .publish) ∧
    ({ s.fc with head := some (.mgmt .reply 3) } : FrameContext).head = some (.mgmt .reply 3) := by
  decide

theorem witness_DownPortRegeneratesTheRelayQueue :
    let s := { inFrame { context .length with relay := some .live } with relay := [entry .opening] }
    let b := downAt .sendingBreak none s
    let d := downAt .delimiter none s
    let t := downAt .sending (some (entry .turn)) s
    (s.inReset = false ∧ s.down.state = .idle ∧ s.down.low = none ∧ s.relay = [entry .opening] ∧
      (entry .opening).marker = .opening) ∧
    (b.down.state = .sendingBreak ∧ 14 * b.down.tbit ≤ b.now + 14 * nominal - b.down.since) ∧
    (d.down.state = .delimiter ∧ 2 * d.down.tbit ≤ d.now + 2 * nominal - d.down.since) ∧
    ((downAt .rate none s).down.state = .rate ∧ (downAt .rate none s).down.cur = none) ∧
    (t.down.state = .sending ∧ t.down.cur = some (entry .turn) ∧
      10 * t.down.tbit ≤ t.now + 10 * nominal - t.down.since) ∧
    ((entry .body).marker = .body ∧ (entry .ending).marker = .ending ∧ (entry .turn).marker = .turn) ∧
    (b.downDrive = .low ∧ d.downDrive = .released ∧ (downAt .rate none s).downDrive = .byte 0xAA ∧
      t.downDrive = .byte 0x25 ∧ (downAt .sending none s).downDrive = .released ∧
      s.down.state ∈ [DownState.idle, .foreignLow, .stuck, .delimiter, .listen, .receive]) := by
  decide

/-- The DOWN port with a low since moment 0. -/
def foreign : State :=
  { base with down := { base.down with state := .foreignLow, low := some low } }

theorem witness_DownLineDisturbances :
    (base.inReset = false ∧ (downAt .delimiter none base).down.state ∈ [DownState.delimiter, .rate, .sending] ∧
      (downAt .sending none base).down.state ∈ [DownState.delimiter, .rate, .sending]) ∧
    (base.down.state = .idle ∧ base.down.low = none) ∧
    (({ base.down with heardFrom := some 0 } : DownPort).heardFrom = some 0 ∧ 0 + 7500 ≤ base.now + 7500) ∧
    (let timed : State := { foreign with down := { foreign.down with state := .idle } }
     timed.down.state = .idle ∧ timed.down.low = some low ∧ low.since + 7500 = timed.now + 7500) ∧
    (foreign.down.state = .foreignLow ∧ foreign.down.low = some low ∧
      foreign.now + (13 * nominal - 1) - low.since < 13 * low.tbit ∧
      13 * low.tbit ≤ foreign.now + 13 * nominal - low.since ∧
      foreign.now + 200 * nominal - low.since ≤ 200 * low.tbit ∧
      200 * low.tbit < foreign.now + (200 * nominal + 1) - low.since) ∧
    (∀ e, foreign.relay.head? = some e → e.marker ≠ .opening) ∧
    ({ foreign with relay := [entry .opening, entry .body] } : State).relay = entry .opening :: [entry .body] ∧
    ([entry .body].filter fun x => decide (x.frame ≠ (entry .opening).frame)).head? = none :=
  ⟨⟨rfl, by decide, by decide⟩, ⟨rfl, rfl⟩, ⟨rfl, by decide⟩, ⟨rfl, rfl, rfl⟩,
    ⟨rfl, rfl, by decide, by decide, by decide, by decide⟩, fun _ h => (by cases h), rfl, by decide⟩

theorem witness_DownResponseBytesAreRelayed :
    let s := inFrame { context .relayResponse with relay := some .live }
    let l := downAt .listen none s
    let r := downAt .receive none s
    s.inReset = false ∧ s.relay.length < 32 ∧
    (l.down.state = .listen ∧ 2 * (l.now + 26875 - l.down.since) < 43 * l.down.tbit + 2) ∧
    (r.down.state = .receive ∧ r.now + 16250 - r.down.since ≤ 13 * r.down.tbit) ∧
    r.down.respLeft = 0 ∧ 0 < ({ r.down with respLeft := 1 } : DownPort).respLeft := by
  decide

theorem witness_DownResponseEndings :
    let s := inFrame { context .relayResponse with relay := some .live }
    let l := downAt .listen none s
    let r := downAt .receive none s
    (s.inReset = false ∧ l.down.state = .listen ∧ 12 * l.down.tbit ≤ l.now + 12 * nominal - l.down.since) ∧
    (r.down.state = .receive ∧ 7 * r.down.tbit ≤ 2 * (r.now + 4375 - r.down.since)) ∧
    -- a low that has lasted just under 13 nominal Tbit, and one of 13
    (16249 < 13 * r.mgmt.rate.tbit ∧ 16249 ≤ r.now + 16249 - r.down.since ∧
      2 * (r.now + 20624 - r.down.since) ≤ 7 * r.down.tbit + 2 * 16249 ∧ 19 * r.down.tbit ≤ 2 * 16249 ∧
      2 * 16249 ≤ 19 * r.down.tbit + 2 * 16249) ∧
    (13 * r.mgmt.rate.tbit ≤ 16250 ∧ 16250 ≤ r.now + 16250 - r.down.since ∧
      2 * (r.now + 32500 - r.down.since) ≤ 7 * r.down.tbit + 19 * r.down.tbit + 2 * 16250 ∧
      2 * (l.now + 43125 - l.down.since) ≤ 24 * l.down.tbit + 19 * l.down.tbit + 2 * 16250) := by
  decide

theorem witness_QuietExpiryTripsItsGroups :
    let s : State := { base with
      up := { base.up with quiet := .running }, mgmt := { base.mgmt with quietLimit := 5 } }
    s.inReset = false ∧ s.up.quiet = .running ∧
    s.mgmt.quietLimit.toNat * 120000 ≤ s.now + 600000 - s.up.quietSince ∧
    ¬s.mgmt.quietLimit.toNat * 120000 ≤ s.now + 599999 - s.up.quietSince ∧
    -- R63: the pass of this moment met the expiry
    (let m : State := { s with up := { s.up with met := some { moment := 0, limit := 5 } } }
     m.up.met = some { moment := m.now + 0, limit := 5 } ∧
      m.now + 0 - m.up.quietSince < m.mgmt.quietLimit.toNat * 120000) := by
  decide

/-! ### Witnesses: outputs -/

theorem witness_WrapIsACycleStart :
    base.inReset = false ∧
    widthAndFollow.cycle.period * widthAndFollow.cycle.tick.length ≤
      widthAndFollow.now + 12000 - widthAndFollow.cycle.base ∧
    Claims.fallsForHold { GroupRec.reset with state := .run, holdLimit := 3, hold := 3 } = true ∧
    Claims.recovers { GroupRec.reset with state := .run, endPending := true } = true ∧
    -- a follower of a WIDTH channel, which takes its leader's end
    (let s := widthAndFollow
     s.chans[(1 : Chan)].config.mode = .follow ∧ s.chans[(1 : Chan)].config.leader = some 0 ∧ (0 : Chan) < 1 ∧
      s.chans[(0 : Chan)].config.mode = .width ∧
      s.groups[s.chans[(1 : Chan)].config.group].state ≠ .stopped ∧
      s.groups[s.chans[(0 : Chan)].config.group].state ≠ .stopped ∧ s.chans[(1 : Chan)].override = .none ∧
      s.chans[(0 : Chan)].override = .none ∧
      Claims.fallsForHold s.groups[s.chans[(1 : Chan)].config.group] = false ∧
      Claims.fallsForHold s.groups[s.chans[(0 : Chan)].config.group] = false) ∧
    -- a ONESHOT channel that an AUTO commit triggers
    (let c : Channel := { Channel.reset with
       config := { ChanConfig.reset with mode := .oneshot, trigger := some .commit } }
     c.config.trigger = some .commit ∧ c.override = .none ∧
      Claims.takesAuto { GroupRec.reset with state := .run, sources := 0b1000 } = true) := by
  decide

theorem witness_CommitRequestMeetsTheCommitTest :
    let r : GroupRec := { GroupRec.reset with state := .run }
    let q : GroupRec := { GroupRec.reset with state := .resuming }
    ¬(GroupRec.reset.sources.getLsbD 0 = true ∧
      (GroupRec.reset.state = .run ∨ GroupRec.reset.state = .resuming)) ∧
    ¬(r.sources.getLsbD 1 = true) ∧ (r.sources.getLsbD 2 = true ∧ r.state = .run) ∧
    (q.sources.getLsbD 0 = true ∧ q.state = .resuming) ∧ (1 : Group) ≠ 0 ∧
    -- a COMMIT trigger that ends the shot of a leader
    (let c : Channel := { Channel.reset with
       config := { ChanConfig.reset with mode := .oneshot, trigger := some .commit, retrigger := some .restart },
       shot := .active 0 45 0 }
     c.config.mode = .oneshot ∧ c.config.trigger = some .commit ∧ c.config.group = 0 ∧ c.override = .none ∧
      Claims.restartEnds c.active 0 c = true) := by
  decide

theorem witness_PutValuesAreStaged :
    (copyOf .consume).entry.commitAfter = false ∧
    ({ copyOf .consume with entry := { tagEntry .consume with commitAfter := true } } : EntryCopy).entry.commitAfter
      = true := ⟨rfl, rfl⟩

theorem witness_MarksRecordRestartAndCommit :
    let s : State := { widthAndFollow with
      groups := widthAndFollow.groups.set 0 { GroupRec.reset with state := .resuming } }
    let e : TagEntry := { tagEntry .marker with cycleSync := true, filter := 0b0001 }
    ((tagEntry .marker).cycleSync = false ∧ base.cycle.mode = .free) ∧
    (e.cycleSync = true ∧ s.cycle.mode = .marked ∧ (0b0011 : GroupSet).getLsbD 0 = true ∧
      e.filter.getLsbD 0 = true ∧ s.groups[(0 : Group)].sources.getLsbD 0 = true ∧
      s.groups[s.chans[(0 : Chan)].config.group].state = .resuming) ∧
    ∀ q ∈ [({ code := .lineBack, subject := .port .up, detail := .none } : Posting)],
      q.code ≠ .groupRun ∧ q.code ≠ .fallback := by
  decide

theorem witness_WidthPhaseFollowsTheCount :
    let s := driving { channel .width with active := { setpoint := 30, delay := 20 } } .run
    let on := driving { channel .width with active := { setpoint := 30, delay := 20 }, phase := true } .run
    let count (dt : Time) : Nat := (s.now + dt - s.cycle.base) / s.cycle.tick.length
    (s.inReset = false ∧ s.chans[(0 : Chan)].config.mode = .width ∧
      s.groups[s.chans[(0 : Chan)].config.group].state ≠ .stopped ∧ s.chans[(0 : Chan)].phase = false ∧
      20 ≤ count 2400 ∧ ¬20 ≤ count 2399 ∧ count 5999 < 50 ∧ count 5999 < s.cycle.period) ∧
    (on.chans[(0 : Chan)].phase = true ∧ 50 ≤ count 6000 ∧ 50 < on.cycle.period ∧
      ∀ f : Chan, on.chans[f].config.mode = .follow → on.chans[f].config.leader ≠ some 0) ∧
    (let led := widthAndFollow
     (0 : Chan) < 1 ∧ led.chans[(0 : Chan)].override = .none ∧ led.chans[(1 : Chan)].config.mode = .follow ∧
      led.chans[(1 : Chan)].config.leader = some 0 ∧
      led.groups[led.chans[(1 : Chan)].config.group].state ≠ .stopped ∧ led.chans[(1 : Chan)].override = .none) ∧
    ({ channel .width with override := .active } : Channel).override ≠ .none := by
  decide

theorem witness_ShotsAndTheirTriggers :
    let waits := driving { channel .oneshot with shot := .waiting 10 45 0 } .run
    let f : State := { widthAndFollow with
      chans := widthAndFollow.chans.set 0 { channel .oneshot with shot := .active 0 45 0 } }
    let c : Channel := { Channel.reset with
      config := { ChanConfig.reset with mode := .oneshot, trigger := some (.capture 2) } }
    (waits.inReset = false ∧ waits.chans[(0 : Chan)].config.mode = .oneshot ∧
      f.chans[(1 : Chan)].config.mode = .follow ∧ waits.chans[(0 : Chan)].shot = .waiting 10 45 0 ∧
      (10 : Value12).toNat * waits.cycle.tick.length ≤ waits.now + 1200 - 0) ∧
    (f.chans[(0 : Chan)].shot = .active 0 45 0 ∧ (45 : Value12).toNat * f.cycle.tick.length ≤ f.now + 5400 - 0 ∧
      (2 : Chan) ≠ 0 ∧ f.chans[(2 : Chan)].config.mode ≠ .follow ∧ (0 : Chan) < 1 ∧
      f.chans[(0 : Chan)].override = .none ∧ f.chans[(1 : Chan)].config.mode = .follow ∧
      f.chans[(1 : Chan)].config.leader = some 0 ∧
      f.groups[f.chans[(1 : Chan)].config.group].state ≠ .stopped ∧ f.chans[(1 : Chan)].override = .none) ∧
    ({ c with override := .active } : Channel).override ≠ .none ∧
    (driving c .run).chans[(0 : Chan)].config.mode = .oneshot ∧
    (driving c .run).chans[(0 : Chan)].config.trigger = some (.capture 2) := by
  decide

/-! ### Witnesses: measurement -/

/-- C0 with a mode, a filter and a pending change. -/
def captures (mode : CaptureMode) (filter : Filter) (change : Option PendingChange) (measure : Measure) : State :=
  { base with caps := base.caps.set 0 { Capture.resetAt .low with
      mode := mode, filter := filter, filtered := some .low, change := change, measure := measure } }

theorem witness_CapturePinsAreFilteredAndTimed :
    (let o := captures .low .f0 none (.timing 0)
     o.now + 65535 * 120 - 0 ≤ 65535 * o.cycle.tick.length ∧ o.caps[(0 : CapIn)].configuredAt ≠ some (o.now + 1)) ∧
    ({ Capture.resetAt .low with configuredAt := some 7 } : Capture).configuredAt = some 7 ∧
    let s := captures .high .f2 none .waiting
    let p : PendingChange := { level := .high, since := 0 }
    let back : State := { base with caps := base.caps.set 0 { Capture.resetAt .high with
      mode := .high, filter := .f2, filtered := some .low, change := some p, measure := .waiting } }
    let h := captures .high .f2 (some p) .waiting
    (s.inReset = false ∧ s.caps[(0 : CapIn)].pin ≠ .high ∧ s.caps[(0 : CapIn)].mode ≠ .off ∧
      s.caps[(0 : CapIn)].filtered ≠ some .high ∧ s.caps[(0 : CapIn)].filter ≠ .f0 ∧
      s.caps[(0 : CapIn)].change = none) ∧
    (back.caps[(0 : CapIn)].pin ≠ .low ∧ back.caps[(0 : CapIn)].filtered = some .low ∧
      back.now + 239 - p.since < 2 * back.cycle.tick.length) ∧
    ((captures .high .f0 none .waiting).caps[(0 : CapIn)].filter = .f0 ∧ base.caps[(0 : CapIn)].mode = .off) ∧
    (h.caps[(0 : CapIn)].change = some p ∧ 2 * h.cycle.tick.length ≤ h.now + 240 - p.since) ∧
    (let o := captures .period .f0 none (.armed 0)
     o.caps[(0 : CapIn)].mode = .period ∧ o.caps[(0 : CapIn)].measure = .armed 0 ∧
      65535 * o.cycle.tick.length ≤ o.now + 7864200 - 0) ∧
    (let o := captures .low .f0 none (.timing 0)
     o.caps[(0 : CapIn)].mode = .low ∧ o.caps[(0 : CapIn)].measure = .timing 0) := by
  decide

theorem witness_ScanConvertsItsListAndChecksLimits :
    let s := scanning (.converting 2 0)
    let hot : State := { s with sampler := { s.sampler with
      inputs := s.sampler.inputs.set 1 { s.sampler.inputs[(1 : AnIn)] with outside := true } } }
    (s.inReset = false ∧ (scanning (.settling 0)).sampler.scan = .settling 0 ∧ 600 ≤ s.now + 600 - 0) ∧
    (s.sampler.scan = .converting 2 0 ∧ s.sampler.list[2]? = some 1 ∧ s.sampler.list.length ≤ 4 ∧
      168 ≤ s.now + 168 - 0) ∧
    (decide ((801 : BitVec 10) < 100 ∨ 800 < (801 : BitVec 10)) = true ∧
      s.sampler.inputs[(1 : AnIn)].outside = false) ∧
    decide ((800 : BitVec 10) < 100 ∨ 800 < (800 : BitVec 10)) = false ∧
    hot.sampler.inputs[(1 : AnIn)].outside = true := by
  decide

/-! ### Witnesses: events, pins, management -/

theorem witness_AttnFollowsQueueAndGroups :
    base.inReset = false ∧ ∃ t, exec (.resetRelease 0 15 true true) State.reset = .next t :=
  ⟨rfl, _, rfl⟩

theorem witness_DrivePinsFollowTheirChannels :
    let on (mode : ChanMode) : State := driving (channel mode) .run
    let forced (o : Override) : State := driving { channel .level with latch := true, override := o } .fallback
    let low (c : Channel) : Channel := { c with config := { c.config with polarity := .activeLow } }
    (base.chans[(5 : Chan)].config.mode = .off ∧ base.inReset = false ∧ State.reset.inReset = false ∧
      ({ base with inReset := true } : State).inReset = true ∧ base.groups[(0 : Group)].state = .stopped) ∧
    ((on .off).groups[(0 : Group)].state ≠ .stopped ∧ (on .off).chans[(0 : Chan)].override = .none ∧
      (forced .idle).chans[(0 : Chan)].override = .idle ∧ (forced .active).chans[(0 : Chan)].override = .active) ∧
    -- one pin for each condition, and both polarities
    ((driving (channel .level) .stopped).drivePin 0 = .low ∧ (forced .idle).drivePin 0 = .low ∧
      (forced .active).drivePin 0 = .high ∧ (forced .none).drivePin 0 = .high ∧ (on .off).drivePin 0 = .low ∧
      (on .level).drivePin 0 = .low ∧ (driving { channel .width with phase := true } .run).drivePin 0 = .high ∧
      (driving { channel .oneshot with shot := .active 0 9 0 } .resuming).drivePin 0 = .high ∧
      (driving { channel .follow with shot := .waiting 3 9 0 } .run).drivePin 0 = .low ∧
      (driving (low { channel .level with latch := true }) .run).drivePin 0 = .low ∧
      (driving (low (channel .level)) .stopped).drivePin 0 = .high) := by
  decide

theorem witness_SamplerTriggerMeetsTheScanState :
    Sampler.reset.scan = .off ∧ (scanning .ready).sampler.scan = .ready ∧
    (scanning .asleep).sampler.scan = .asleep ∧ (∃ t, (scanning (.settling 0)).sampler.scan = .settling t) ∧
    ∃ pos t, (scanning (.converting 3 0)).sampler.scan = .converting pos t :=
  ⟨rfl, rfl, rfl, ⟨_, rfl⟩, _, _, rfl⟩

theorem witness_FreshByteMarksUnservedSequences :
    (.captureValue 0 : SourceItem) ∈ [SourceItem.fresh, .captureValue 0] := by decide

theorem witness_BytesOfFieldsReadBack :
    Head.mgmt .reply 14 ≠ .mgmt .reply 15 ∧ headOf 0xDE = some (.mgmt .reply 14) ∧
    headOf 0xC0 = some (.mgmt .command 0) ∧ headOf 0xBF = some (.tagged .mark 63) ∧
    cmdOf 0x51 = some .eventAck ∧ cmdOf 0x01 = some .ping := by
  decide

/-- Sequence 2 is the last one. -/
def afterTwo : State := { base with mgmt := { base.mgmt with lastSeq := some 2 } }

theorem lineFree_base : Claims.lineFree base := ⟨rfl, rfl, rfl⟩

theorem takesOwn_base (seq : Sys2Proof.Seq) : Claims.takesOwn 3 seq base := ⟨lineFree_base, rfl, fun h => (by cases h)⟩

theorem takesBroadcast_base (seq : Sys2Proof.Seq) : Claims.takesBroadcast seq base :=
  ⟨lineFree_base, fun h => (by cases h)⟩

/-- The reset state, which is unassigned, takes every broadcast. -/
theorem takesBroadcast_reset (seq : Sys2Proof.Seq) : Claims.takesBroadcast seq State.reset :=
  ⟨⟨rfl, rfl, rfl⟩, fun h => (by cases h)⟩

theorem witness_RepeatsAndRejectsExecuteNothing :
    Claims.rowOf (.ping 0 .own 2) = some ⟨.own, 2, [0x01]⟩ ∧ Claims.lineFree afterTwo ∧
    afterTwo.mgmt.lastSeq = some 2 ∧ afterTwo.mgmt.station ≠ none ∧
    (Claims.rowOf (.unassign 0 .broadcast 3) = some ⟨.broadcast, 3, [0x07]⟩ ∧ base.mgmt.lastSeq ≠ some 3 ∧
      ([0x07] : List Byte).head? ∉ [some 0x26, some 0x24, some 0x08, some 0x01, some 0x06]) ∧
    State.reset.mgmt.station = none ∧ base.mgmt.lastSeq ≠ some 0 ∧ (∀ c : CmdCode, cmdByte c ≠ 0x00) ∧
    CmdCode.unassign ∉ [CmdCode.commit, .groupStop, .softReset, .ping, .assignStation] ∧
    ([0, 0] : List Byte).length ≠ cmdLength .commit :=
  ⟨rfl, ⟨rfl, rfl, rfl⟩, rfl, by decide, ⟨rfl, by decide, by decide⟩, rfl, by decide,
    fun c => (by cases c <;> decide), by decide, by decide⟩

theorem witness_CommandRowsNeedAFreeLine :
    Claims.rowOf (.ping 0 .own 0) = some ⟨.own, 0, [0x01]⟩ ∧ (inFrame (context .data)).inReset = false ∧
    (inFrame (context .data)).fc.state ≠ .done ∧ (lowOn base).up.rx ≠ .idle := by
  decide

theorem witness_RefusedCommandsOnlyPassAndReply :
    (Claims.rowOf (.readCounts 0 .own 0 2) = some ⟨.own, 0, [0x03, 2]⟩ ∧ Claims.takesOwn 3 0 base ∧
      after (fun t => t.mgmt.reply.result) (.readCounts 0 .own 0 2) base = some (some .badOperand)) ∧
    after (fun t => t.mgmt.reply.result) (.eventAck 0 .own 0 7) base = some (some .notFound) ∧
    after (fun t => t.mgmt.reply.result) (.writeUnpack 0 .own 0 0 1 [0]) base = some (some .badLength) ∧
    (Claims.rowOf (.assignStation 0 .own 0 7) = some ⟨.own, 0, [0x06, 7]⟩ ∧
      after (fun t => t.mgmt.reply.result) (.assignStation 0 .own 0 7) base = some (some .state)) ∧
    after (fun t => t.mgmt.reply.result) (.writeTag 0 .own 0 9 3 1 0xFF 0 0 0 0 0 0) base = some (some .badEntry) ∧
    (Claims.rowOf (.sampleNow 0 .own 0) = some ⟨.own, 0, [0x34]⟩ ∧
      after (fun t => t.mgmt.reply.result) (.sampleNow 0 .own 0) base = some (some .state)) ∧
    base.mgmt.lastSeq ≠ some 0 ∧ (∀ c : CmdCode, cmdByte c ≠ 0x00) ∧ CmdCode.ping ≠ .writeUnpack ∧
    ([0] : List Byte).length ≠ cmdLength .ping ∧
    (1 ≤ (6 : Byte).toNat ∧ (6 : Byte).toNat ≤ 6 ∧ ([] : List Byte).length ≠ 2 * (1 : Byte).toNat) ∧
    ([] : List Byte).length < 2 ∧ ([0] : List Byte).length < 2 :=
  ⟨⟨rfl, takesOwn_base 0, by decide⟩, by decide, by decide, ⟨rfl, by decide⟩, by decide, ⟨rfl, by decide⟩,
    by decide, fun c => (by cases c <;> decide), by decide, by decide, by decide, by decide⟩

/-! ### Witnesses: the results of the commands -/

theorem witness_StatusReadsReplyWithTheItems : Claims.takesOwn 3 7 base := takesOwn_base 7

theorem witness_TableChannelAndCaptureReads :
    Claims.takesOwn 3 0 base ∧ 1 ≤ 6 ∧ (42 : Fin 48).val + 6 ≤ 48 ∧ (47 : Fin 48).val + 1 ≤ 48 :=
  ⟨takesOwn_base 0, by decide, by decide, by decide⟩

theorem witness_SampleAndPublishReads :
    Claims.takesOwn 3 0 base ∧ (0 : Byte).toNat ≤ 1 ∧ (1 : Byte).toNat ≤ 1 ∧
    base.itemBytes 0 base.publish.source[(31 : Fin 32)] = [0] ∧ base.publish.source[(31 : Fin 32)] ≠ .fresh ∧
    base.itemBytes 0 (.captureValue 0) = [0, 0] :=
  ⟨takesOwn_base 0, by decide, by decide, by decide, by decide, by decide⟩

theorem witness_LineCountAndAckCommands :
    Claims.takesOwn 3 0 twoEvents ∧
    (∃ older newer e, twoEvents.events.queue = older ++ e :: newer ∧ older.length = 1 ∧
      ∀ x ∈ older, x.stamp ≠ e.stamp) ∧
    ∀ x ∈ twoEvents.events.queue, x.stamp ≠ 14 :=
  ⟨⟨⟨rfl, rfl, rfl⟩, rfl, fun h => (by cases h)⟩, ⟨[_], [], _, rfl, rfl, by decide⟩, by decide⟩

theorem witness_StationIsAssignedAndUnassigned :
    (Claims.takesBroadcast 0 State.reset ∧ State.reset.mgmt.station = none) ∧
    (Claims.takesBroadcast 0 base ∧ base.mgmt.station ≠ none ∧ 15 ≤ (15 : Byte).toNat) ∧
    Claims.takesOwn 3 0 base :=
  ⟨⟨takesBroadcast_reset 0, rfl⟩, ⟨takesBroadcast_base 0, by decide, by decide⟩, takesOwn_base 0⟩

theorem witness_SoftResetGivesTheSoftResetValues :
    (Claims.takesBroadcast 0 base ∧ (Via.own = .own → base.mgmt.station ≠ none)) ∧
    base.down.state ∈ [DownState.idle, .foreignLow, .stuck] ∧
    (downAt .listen none base).down.state ∈ [DownState.delimiter, .listen, .receive] ∧
    (downAt .rate none base).down.state ∈ [DownState.sendingBreak, .rate] ∧
    Claims.takesBroadcast 0 (downAt .rate none base) ∧
    (let carrying := downAt .sending (some (entry .body)) base
     carrying.mgmt.lastSeq ≠ some 0 ∧ carrying.down.frame = 1 ∧ base.down.frame ≠ 1) :=
  ⟨⟨takesBroadcast_base 0, by decide⟩, by decide, by decide, by decide, ⟨⟨rfl, rfl, rfl⟩, fun h => (by cases h)⟩,
    by decide⟩

theorem witness_BankWritesReachTheShadowBank :
    Claims.takesOwn 3 0 base ∧ (tagEntry .relay).commitAfter = decide ((0 : Byte) ≠ 0) ∧
    ({ tagEntry .relay with cycleSync := true } : TagEntry).cycleSync = decide ((9 : Byte) ≠ 0) ∧
    (List.replicate 6 Descriptor.reset).length ≤ 6 ∧ (42 : Fin 48).val + 6 ≤ 48 :=
  ⟨takesOwn_base 0, by decide, by decide, by decide, by decide⟩

/-- A shadow bank whose only CONSUME entry, on tag 5, names a list of one two-byte descriptor at offset 0. -/
def shadow (expected : ExpectedLength) : Bank :=
  { entries := Bank.reset.entries.set 5 { tagEntry .consume with expected := expected, unpackCount := 1 },
    descriptors := Bank.reset.descriptors.set 0 { Descriptor.reset with size := .two } }

/-- A shadow bank whose entry for tag 5 lists the six descriptors from index 43 on, one beyond the table. -/
def pastTheTable : Bank :=
  { Bank.reset with
    entries := Bank.reset.entries.set 5
      { tagEntry .consume with expected := .exactly 16, unpackFirst := 43, unpackCount := 6 } }

theorem witness_SwapBanksTakesOnlyASoundBank :
    Claims.takesOwn 3 0 base ∧
    (Claims.entrySound (shadow (.exactly 2)) (shadow (.exactly 2)).entries[(5 : Tag)]) ∧
    Claims.bankSound Bank.reset ∧
    (¬Claims.entrySound (shadow (.exactly 1)) (shadow (.exactly 1)).entries[(5 : Tag)] ∧
      ∀ i : Tag, i < 5 → Claims.entrySound (shadow (.exactly 1)) (shadow (.exactly 1)).entries[i]) ∧
    -- the list of tag 5 is descriptor 0 alone, which needs two bytes
    ((shadow (.exactly 1)).entries[(5 : Tag)].unpackFirst.val +
      (shadow (.exactly 1)).entries[(5 : Tag)].unpackCount.val = 1 ∧
      (shadow (.exactly 1)).descriptors[(0 : Fin 48)].size = .two) ∧
    -- a list that ends just past the table
    ((¬Claims.entrySound pastTheTable pastTheTable.entries[(5 : Tag)] ∧
      ∀ i : Tag, i < 5 → Claims.entrySound pastTheTable pastTheTable.entries[i]) ∧
      pastTheTable.entries[(5 : Tag)].unpackFirst.val + pastTheTable.entries[(5 : Tag)].unpackCount.val = 49) := by
  refine ⟨takesOwn_base 0, ?_, ?_, ⟨?_, ?_⟩, by decide, ⟨?_, ?_⟩, by decide⟩
  · unfold Claims.entrySound; decide
  · intro tag; unfold Claims.entrySound; revert tag; decide
  · unfold Claims.entrySound; decide
  · unfold Claims.entrySound; decide
  · unfold Claims.entrySound; decide
  · unfold Claims.entrySound; decide

theorem witness_ConfigCycleRestartsTheCounter :
    Claims.takesOwn 3 0 base ∧ 2 ≤ 256 * (0 : Byte).toNat + (2 : Byte).toNat ∧
    256 * (0x10 : Byte).toNat + (0 : Byte).toNat ≤ 4096 ∧ (∀ g : Group, base.groups[g].state = .stopped) ∧
    ∃ g : Group, (driving Channel.reset .run).groups[g].state ≠ .stopped :=
  ⟨takesOwn_base 0, by decide, by decide, by decide, 0, by decide⟩

theorem witness_ConfigChannelStoresTheConfiguration :
    let busy : State := driving Channel.reset .run
    let led := widthAndFollow
    Claims.takesOwn 3 0 base ∧
    (chanModeOf 4 = some .follow ∧ polarityOf 1 = some .activeLow ∧ actionOf 2 = some .hold ∧
      chanTriggerOf 0x13 = some (.capture 3) ∧ retriggerOf 1 = some .restart) ∧
    (busy.groups[busy.chans[(0 : Chan)].config.group].state ≠ .stopped ∧
      base.groups[base.chans[(0 : Chan)].config.group].state = .stopped) ∧
    (busy.groups[(0 : Group)].state ≠ .stopped ∧ (3 : Chan) ≤ 3 ∧ (0 : Chan) < 3 ∧
      ¬(base.chans[(0 : Chan)].config.mode = .width ∨ base.chans[(0 : Chan)].config.mode = .oneshot ∨
        base.chans[(0 : Chan)].config.mode = .follow)) ∧
    (led.groups[led.chans[(1 : Chan)].config.group].state ≠ .stopped ∧
      led.chans[(1 : Chan)].config.mode = .follow ∧ led.chans[(1 : Chan)].config.leader = some 0) :=
  ⟨takesOwn_base 0, by decide, by decide, by decide, by decide⟩

theorem witness_GroupStartStartsItsGroups :
    Claims.takesOwn 3 0 base ∧ Claims.leadersOk base.chans 0 = true ∧
    Claims.leadersOk (base.chans.set 0 (channel .follow)) 0 = false ∧
    -- its failing channel: D0 follows no lower one
    (let chans := base.chans.set 0 (channel .follow)
     chans[(0 : Chan)].config.group = 0 ∧ chans[(0 : Chan)].config.mode = .follow ∧
      ¬∃ l : Chan, chans[(0 : Chan)].config.leader = some l ∧ l < 0) :=
  ⟨takesOwn_base 0, by decide, by decide, by decide⟩

theorem witness_GroupCommandsActOnTheirMasks : Claims.takesOwn 3 0 base ∧ Claims.takesBroadcast 0 base :=
  ⟨takesOwn_base 0, takesBroadcast_base 0⟩

theorem witness_MeasurementCommandsConfigure :
    Claims.takesOwn 3 0 base ∧ 1 ≤ ([3] : List AnIn).length ∧
    (([3] : List AnIn).map (fun a : AnIn => byteOf a.val) ++ [9, 9, 9]).length = 4 ∧
    (([0, 1, 2, 3] : List AnIn).map (fun a : AnIn => byteOf a.val) ++ []).length = 4 ∧
    (1023 : BitVec 10) ≤ 1023 ∧ (0 : BitVec 10) ≤ 0 :=
  ⟨takesOwn_base 0, by decide, by decide, by decide, by decide, by decide⟩

/-- Every item of the source list is a two-byte value; the map of B0 holds the first eight. -/
def wide : Vector SourceItem 32 := Vector.replicate 32 (.sampleValue 0)

theorem witness_PublishCommandsKeepMapsWithinSixteen :
    Claims.takesOwn 3 0 base ∧ (24 : Fin 32).val + (8 : Fin 9).val ≤ 32 ∧
    (∀ b : Buf, ¬(base.publish.maps[b].first.val ≤ 0 ∧
      0 < base.publish.maps[b].first.val + base.publish.maps[b].count.val)) ∧
    mapSize wide { first := 0, count := 8 } = 16 ∧
    ¬16 < mapSize wide { first := 0, count := 8 } :=
  ⟨takesOwn_base 0, by decide, by decide, by decide, by decide⟩

theorem witness_FaultyFirstOperandIsNamed :
    Claims.takesOwn 3 0 base ∧ 64 ≤ (64 : Byte).toNat ∧ 48 ≤ (48 : Byte).toNat ∧ 2 ≤ (2 : Byte).toNat ∧
    3 ≤ (3 : Byte).toNat ∧ 4 ≤ (4 : Byte).toNat ∧ 6 ≤ (6 : Byte).toNat ∧ 8 ≤ (8 : Byte).toNat ∧
    16 ≤ (16 : Byte).toNat ∧ 32 ≤ (32 : Byte).toNat ∧ ([0, 0] : List Byte).length = 2 * (1 : Byte).toNat :=
  ⟨takesOwn_base 0, by decide⟩

/-! ### Witnesses: the invariants -/

/-- The reset state with one command waiting. -/
def waiting : State := { State.reset with pending := [.ping 0 .broadcast 0] }

theorem witness_StepKeepsQueuesWithinBounds :
    Claims.eventsOk waiting ∧ Claims.relayOk waiting ∧ ∃ t, step waiting = .next t :=
  ⟨⟨by decide, fun i e h => (by cases i <;> cases h)⟩, by unfold Claims.relayOk; decide, _, rfl⟩

theorem witness_StepKeepsDriveRecordsAndLeaders :
    (∀ d : Chan, Claims.channelOk waiting d) ∧ Claims.followersOk waiting ∧ ∃ t, step waiting = .next t :=
  ⟨fun d => (by unfold Claims.channelOk; revert d; decide), fun g h => absurd (by revert g; decide) h, _, rfl⟩

theorem witness_StepKeepsTheActiveBankSound : Claims.banksOk waiting ∧ ∃ t, step waiting = .next t :=
  ⟨⟨fun tag => (by unfold Claims.entrySound; revert tag; decide), by decide⟩, _, rfl⟩

theorem witness_StepKeepsSettingsInRange : Claims.settingsOk waiting ∧ ∃ t, step waiting = .next t :=
  ⟨(by unfold Claims.settingsOk; decide), _, rfl⟩

end Sys2Proof.Tests
end

section
/-!
PROOFS. The sampler (chapter 8): a byte counter's saturating increment, and a trigger by the scan state
it finds.
-/

namespace Sys2Proof.Machine

/-- A saturating byte counter stands still at 255. -/
theorem satInc_byte (c : Byte) : satInc c = if c = 255 then 255 else c + 1 := by
  have full : BitVec.allOnes 8 = (255 : Byte) := rfl
  unfold satInc
  rw [full]
  split
  case isTrue atLimit => exact atLimit
  case isFalse => rfl

section
variable (now : Time) {sm : Sampler}

theorem Sampler.trigger_of_off (off : sm.scan = .off) : sm.trigger now = sm := by
  simp only [Sampler.trigger, off]

theorem Sampler.trigger_of_ready (ready : sm.scan = .ready) :
    sm.trigger now = { sm with scan := .converting 0 now } := by
  simp only [Sampler.trigger, ready]

theorem Sampler.trigger_of_asleep (asleep : sm.scan = .asleep) :
    sm.trigger now = { sm with scan := .settling now } := by
  simp only [Sampler.trigger, asleep]

/-- R135: a scan in progress goes on, and the discarded trigger is counted. -/
theorem Sampler.trigger_of_busy
    (busy : (∃ t, sm.scan = .settling t) ∨ ∃ pos t, sm.scan = .converting pos t) :
    sm.trigger now = { sm with overrun := satInc sm.overrun } := by
  obtain ⟨t, settling⟩ | ⟨pos, t, converting⟩ := busy
  · simp only [Sampler.trigger, settling]
  · simp only [Sampler.trigger, converting]

end

/-- Settles O35, one lemma for each bullet of R135. -/
theorem samplerTriggerMeetsTheScanState : Obligations.SamplerTriggerMeetsTheScanState := by
  intro now sm
  refine ⟨Sampler.trigger_of_off now, Sampler.trigger_of_ready now, Sampler.trigger_of_asleep now, ?_⟩
  intro busy
  rw [Sampler.trigger_of_busy now busy, satInc_byte]

end Sys2Proof.Machine
end

section
/-!
PROOFS. The FRESH byte of a publish buffer (R156): its bits one by one, and the snapshot that carries it.
-/

namespace Sys2Proof.Machine

/-- The byte that stands for one position has that bit alone. -/
theorem getLsbD_byteOf_two_pow (i : Nat) {j : Nat} (inByte : j < 8) :
    (byteOf (2 ^ i)).getLsbD j = decide (i = j) := by
  rw [byteOf, BitVec.getLsbD_ofNat, Nat.testBit_two_pow, decide_eq_true inByte, Bool.true_and]

/-- The first item marks position n; the items after it mark the positions from n + 1 on. -/
theorem getLsbD_freshBits_cons (n : Nat) (q : Option Byte) (qs served : List (Option Byte)) {j : Nat}
    (inByte : j < 8) :
    (freshBits n (q :: qs) served).getLsbD j = true ↔
      (n = j ∧ q.isSome ∧ q ≠ served.headD none) ∨ (freshBits (n + 1) qs served.tail).getLsbD j = true := by
  rw [freshBits, BitVec.getLsbD_or, Bool.or_eq_true]
  by_cases unserved : q.isSome ∧ q ≠ served.headD none
  · rw [if_pos unserved, getLsbD_byteOf_two_pow n inByte, decide_eq_true_iff, and_iff_left unserved]
  · have noBit : (0 : Byte).getLsbD j ≠ true := by simp
    rw [if_neg unserved, or_iff_right noBit, or_iff_right fun ⟨_, marked⟩ => unserved marked]

/-- No position below the first one read is marked. -/
theorem getLsbD_freshBits_below (qs : List (Option Byte)) {j : Nat} (inByte : j < 8) :
    ∀ (n : Nat) (served : List (Option Byte)), j < n → (freshBits n qs served).getLsbD j = false := by
  induction qs with
  | nil => intros; exact BitVec.getLsbD_zero
  | cons q qs ih =>
    intro n served below
    have notHere : n ≠ j := by omega
    have notLater := ih (n + 1) served.tail (by omega)
    rw [← Bool.not_eq_true, getLsbD_freshBits_cons n q qs served inByte]
    simp [notHere, notLater]

/-- R156 for two lists read together from position n on; a last-served list that ends early counts as NONE. -/
theorem getLsbD_freshBits (qs : List (Option Byte)) :
    ∀ (n i : Nat) (served : List (Option Byte)), n + i < 8 →
      ((freshBits n qs served).getLsbD (n + i) = true ↔
        ∃ seq, qs[i]? = some (some seq) ∧ served.getD i none ≠ some seq) := by
  induction qs with
  | nil => intro n i served _; simp [freshBits]
  | cons q qs ih =>
    intro n i served inByte
    rw [getLsbD_freshBits_cons n q qs served inByte]
    cases i with
    | zero =>
      have later : (freshBits (n + 1) qs served.tail).getLsbD n = false :=
        getLsbD_freshBits_below qs inByte (n + 1) served.tail n.lt_succ_self
      have head : served.headD none = served.getD 0 none := by cases served <;> rfl
      rw [Nat.add_zero, head]
      cases q with
      | none => simp [later]
      | some seq => simp [later, eq_comm]
    | succ i =>
      have notHere : n ≠ n + (i + 1) := by omega
      have shift : n + (i + 1) = n + 1 + i := by omega
      have tailEntry : served.tail.getD i none = served.getD (i + 1) none := by cases served <;> simp
      rw [or_iff_right fun ⟨here, _⟩ => notHere here, shift, ih (n + 1) i served.tail (by omega), tailEntry,
        List.getElem?_cons_succ]

/-- An entry of a map's sequences is the sequence of the item there. -/
theorem State.mapSeqs_getElem? (s : State) (m : PubMap) (i : Nat) (seq : Byte) :
    (s.mapSeqs m)[i]? = some (some seq) ↔
      ∃ item, (mapItems s.publish.source m)[i]? = some item ∧ s.itemSeq item = some seq := by
  simp [State.mapSeqs]

/-- R156: a bit of the FRESH byte is 1 when its item is sequenced and not yet served. -/
theorem State.freshByte_getLsbD (b : Buf) (s : State) (i : Fin 8) :
    (s.freshByte b).getLsbD i.val = true ↔
      ∃ item seq, (mapItems s.publish.source s.publish.maps[b])[i.val]? = some item ∧
        s.itemSeq item = some seq ∧ s.publish.records[b].served[i] ≠ some seq := by
  have entry : s.publish.records[b].served.toList.getD i.val none = s.publish.records[b].served[i] := by
    simp
  have bit := getLsbD_freshBits (s.mapSeqs s.publish.maps[b]) 0 i.val s.publish.records[b].served.toList
    (by omega)
  rw [Nat.zero_add, entry] at bit
  rw [State.freshByte, bit]
  simp only [State.mapSeqs_getElem?]
  constructor
  · rintro ⟨seq, ⟨item, here, sequenced⟩, unserved⟩
    exact ⟨item, seq, here, sequenced, unserved⟩
  · rintro ⟨item, seq, here, sequenced, unserved⟩
    exact ⟨seq, ⟨item, here, sequenced⟩, unserved⟩

/-- R149: the sequenced items are the captures and the samples, each with its input's sequence. -/
theorem State.itemSeq_eq_some (s : State) (item : SourceItem) (seq : Byte) :
    s.itemSeq item = some seq ↔
      (∃ k, (item = .captureValue k ∨ item = .captureSeq k) ∧ seq = s.caps[k].seq) ∨
      (∃ k, item = .sampleValue k ∧ seq = s.sampler.inputs[k].seq) := by
  cases item with
  | captureValue | captureSeq | sampleValue => simp [State.itemSeq, eq_comm]
  | channelActive | groupState | cycle | fresh | const => simp [State.itemSeq]

/-- R155: every item of a snapshot is read with the one FRESH byte of that moment. -/
theorem State.snapshotBytes_eq_flatMap (b : Buf) (s : State) :
    s.snapshotBytes b =
      (mapItems s.publish.source s.publish.maps[b]).flatMap (s.itemBytes (s.freshByte b)) :=
  List.flatMap_def.symm

/-- Settles O36: the bits by R156, the sequences by R149, the bytes item by item. -/
theorem freshByteMarksUnservedSequences : Obligations.FreshByteMarksUnservedSequences := by
  intro b s
  refine ⟨State.freshByte_getLsbD b s, fun item _ seq => State.itemSeq_eq_some s item seq, ?_⟩
  rw [State.snapshotBytes_eq_flatMap]
  refine List.flatMap_congr fun item _ => ?_
  cases item <;> rfl

end Sys2Proof.Machine
end

section
/-!
PROOFS. The ATTN pin (R189): what holds it, and what a posting and each reset make of it.
-/

namespace Sys2Proof.Machine

/-- R189: the two group states that hold ATTN. -/
theorem GroupState.holdsAttn_iff (x : GroupState) : x.holdsAttn = true ↔ x = .fallback ∨ x = .resuming := by
  cases x <;> decide

theorem allGroups_any_iff (p : Group → Bool) : allGroups.any p = true ↔ ∃ g, p g = true := by
  simp [mem_allGroups]

/-- R189, first two sentences, with the RESET pin of R40. -/
theorem State.attn_iff (s : State) :
    s.attn = true ↔ s.inReset = false ∧ (s.events.queue ≠ [] ∨
      ∃ g : Group, s.groups[g].state = .fallback ∨ s.groups[g].state = .resuming) := by
  have groupHolds : (allGroups.any fun g => (s.groupState g).holdsAttn) = true ↔
      ∃ g : Group, s.groups[g].state = .fallback ∨ s.groups[g].state = .resuming := by
    simp only [allGroups_any_iff, GroupState.holdsAttn_iff, State.groupState]
  rw [State.attn, Bool.and_eq_true, Bool.or_eq_true, groupHolds, Bool.not_eq_true', Bool.not_eq_true',
    List.isEmpty_eq_false_iff]

/-- R183: a posted entry is in the queue, whether or not an older one made room for it. -/
theorem EventBlock.post_queue_ne_nil (cycle : Byte) (p : Posting) (b : EventBlock) :
    (b.post cycle p).queue ≠ [] := by
  unfold EventBlock.post
  split
  case isTrue => exact List.append_ne_nil_of_right_ne_nil _ (List.cons_ne_nil _ _)
  case isFalse => exact List.append_ne_nil_of_right_ne_nil _ (List.cons_ne_nil _ _)

/-- R189: a posting asserts ATTN. -/
theorem State.post_attn (p : Posting) {s : State} (high : s.inReset = false) : (s.post p).attn = true :=
  (State.attn_iff _).mpr ⟨high, .inl (EventBlock.post_queue_ne_nil s.cycle.number p s.events)⟩

/-- With no event queued and every group at its reset value, nothing holds ATTN. -/
theorem State.attn_eq_false_of_reset {s : State} (events : s.events = .reset)
    (groups : s.groups = Vector.replicate 4 .reset) : s.attn = false := by
  have stopped (g : Group) : s.groups[g].state = .stopped := by
    rw [groups, Fin.getElem_fin, Vector.getElem_replicate]
    rfl
  rw [← Bool.not_eq_true, State.attn_iff]
  rintro ⟨-, queued | ⟨g, held⟩⟩
  · exact queued (congrArg EventBlock.queue events)
  · rw [stopped g] at held
    exact held.elim nofun nofun

/-- R181: RESET_RELEASE always takes place, and gives every block its reset values. -/
theorem exec_resetRelease (dt : Time) (straps : BitVec 4) (upLow downLow : Bool) (s : State) :
    exec (.resetRelease dt straps upLow downLow) s = .next ((s.after dt).released straps upLow downLow) := rfl

/-- R189: after pin or power reset ATTN is released. -/
theorem State.released_attn (straps : BitVec 4) (upLow downLow : Bool) (s : State) :
    (s.released straps upLow downLow).attn = false :=
  State.attn_eq_false_of_reset rfl rfl

/-- R190: the event that follows a soft reset asserts ATTN again. -/
theorem ruleSoftReset_attn (via : Via) (carrier : Option Nat) {s : State} (high : s.inReset = false) :
    (ruleSoftReset via carrier s).state.attn = true :=
  State.post_attn (s := s.softReset carrier) _ high

/-- Settles O33: the condition on the state, then a posting, the RESET pin and SOFT_RESET. -/
theorem attnFollowsQueueAndGroups : Obligations.AttnFollowsQueueAndGroups := by
  refine ⟨State.attn_iff, fun p s high => State.post_attn p high, ?_,
    fun carrier via s high => ruleSoftReset_attn via carrier high⟩
  intro dt straps upLow downLow s t taken
  rw [exec_resetRelease] at taken
  cases taken
  exact State.released_attn ..

end Sys2Proof.Machine
end

section
/-!
PROOFS. The induction over steps, packaged once: what a command can do to a state, one part of its effect at
a time, and that a predicate which every such part keeps is kept by every step.
-/

namespace Sys2Proof.Machine

/-- A management row is one command with its operands, and runs as that command (12.5, R173). -/
theorem exec_of_rowOf {c : Instr} {row : Claims.Row} (isRow : Claims.rowOf c = some row) :
    ∃ (code : CmdCode) (ops : List Byte), row.bytes = cmdByte code :: ops ∧
      ∀ s : State, exec c s = command c.dt row.via row.seq code ops s := by
  cases c <;> cases isRow <;> exact ⟨_, _, rfl, fun _ => rfl⟩

/-- The rows that are neither the ports' nor management's. -/
def isBlockRow : Instr → Bool
  | .resetAssert _ | .resetRelease _ _ _ _ | .checkByte _ _ | .lineQuiet _ | .wrap _ | .widthPhaseStart _ _
  | .widthPhaseEnd _ _ | .shotDelayEnd _ _ | .shotEnd _ _ | .capturePinChange _ _ _ | .captureEdge _ _
  | .captureOverflow _ _ | .settlingEnd _ | .conversionEnd _ _ => true
  | _ => false

/-- Every row is the ports', management's, or another block's. -/
theorem row_kinds (c : Instr) :
    isPortRow c = true ∨ (∃ row, Claims.rowOf c = some row) ∨ isBlockRow c = true := by
  cases c
  case resetAssert | resetRelease | checkByte | lineQuiet | wrap | widthPhaseStart | widthPhaseEnd
    | shotDelayEnd | shotEnd | capturePinChange | captureEdge | captureOverflow | settlingEnd
    | conversionEnd => exact .inr (.inr rfl)
  case strayLow | upBreak | frameAbort | lineStuck | stuckEnd | rateByte | rateLimit | addressByte
    | lengthByte | dataByte | framingError | gapError | unanswered | ownResponseStart | upByteSent
    | responseDelivered | upConflict | regenerationStart | downBreakEnd | delimiterEnd | downByteSent
    | downConflict | foreignLow | foreignLowIgnored | downBreak | respTimeout | downResponseByte
    | downResponseCheck | downResponseFraming | downResponseGap | downResponseBreak | upLowSeen =>
    exact .inl rfl
  all_goals exact .inr (.inl ⟨_, rfl⟩)

/-- A predicate that every part of every command's effect keeps. -/
structure KeptByEveryPart (P : State → Prop) : Prop where
  time : ∀ {s : State} (dt : Time), P s → P (s.after dt)
  queue : ∀ {s : State} (q : List Instr), P s → P { s with pending := q }
  resetLow : ∀ {s : State}, P s → P s.heldInReset
  release : ∀ {s : State} (straps : BitVec 4) (upLow downLow : Bool), P s → P (s.released straps upLow downLow)
  /-- The ports' own rows. -/
  port : ∀ {s : State} (c : Instr), isPortRow c = true → P s → P (s.effect c)
  /-- A check byte, up to the frame's local effect. -/
  checkFails : ∀ {s : State}, P s → P ((s.setRx .idle).lineError .check)
  checkAgrees : ∀ {s : State} (b : Byte), P s →
    P ((((s.setRx .idle).joined b .ending).finish .complete).passed.drawn)
  pass : ∀ {s : State}, P s → P s.passed
  postAll : ∀ {s : State} (ps : List Posting), P s → P (s.postAll ps)
  repeated : ∀ {s : State}, P s → P s.countRepeat
  runtime : ∀ {s : State} (tag : Tag) (r : Runtime), P s → P (s.setRuntime tag r)
  put : ∀ {s : State} (tag : Tag) (data : List Byte) (copy : EntryCopy), P s → P (s.applyPut tag data copy)
  mark : ∀ {s : State} (number : Byte) (mask : GroupSet) (entry : TagEntry) (posts : List Posting), P s →
    P (s.handleMark number mask entry posts)
  /-- The management unit. -/
  mgmt : ∀ {s : State} (m : Mgmt), P s → P { s with mgmt := m }
  rule : ∀ {s : State} (via : Via) (carrier : Option Nat) (code : CmdCode) (ops : List Byte), P s →
    P (runRule via carrier code ops s).state
  /-- The quiet timer, the cycle counter and the drive channels. -/
  quietExpires : ∀ {s : State}, P s → P s.quietExpires
  metExpires : ∀ {s : State} (limit : Byte), P s → P (s.metExpires limit)
  wrap : ∀ {s : State}, P s → P s.wrap
  phaseStart : ∀ {s : State} (d : Chan), s.phaseCanStart d = true → P s →
    P (s.setChan d { s.chans[d] with phase := true })
  phaseEnd : ∀ {s : State} (d : Chan), P s → P (s.drive (onlyOn d Channel.endPhase))
  delayEnd : ∀ {s : State} (d : Chan), P s →
    P (s.setChan d { s.chans[d] with shot := s.chans[d].shot.afterDelay s.now })
  shotEnd : ∀ {s : State} (d : Chan), P s → P (s.drive (onlyOn d Channel.endShot))
  /-- The capture inputs and the sampler. -/
  capture : ∀ {s : State} (k : CapIn) (c : Capture), P s → P (s.setCap k c)
  captureEvent : ∀ {s : State} (k : CapIn), P s → P (s.captureEvent k)
  scan : ∀ {s : State} (x : Scan), P s → P { s with sampler := { s.sampler with scan := x } }
  convert : ∀ {s : State} (pos : Fin 4) (a : AnIn) (v : BitVec 10), P s → P (s.convert pos a v)

namespace KeptByEveryPart

section
variable {P : State → Prop} (k : KeptByEveryPart P) {s : State}
include k

/-- R20 and R37: a frame's pass. -/
theorem wholePass (h : P s) : P s.pass := k.postAll _ (k.pass h)

/-- R166 to R170: a command for this bridge. -/
theorem takeCommand (via : Via) (carrier : Option Nat) (seq : Seq) (data : List Byte) (h : P s) :
    P (s.takeCommand via carrier seq data) := by
  unfold State.takeCommand
  split
  · exact k.repeated h
  · have recorded : P { s with mgmt := { s.mgmt with lastSeq := some seq } } := k.mgmt _ h
    cases via with
    | own =>
      refine k.mgmt _ ?_
      unfold runOwn
      split
      · exact recorded
      · split
        · exact recorded
        · split
          · exact recorded
          · exact k.rule _ _ _ _ recorded
    | broadcast =>
      dsimp only
      unfold State.broadcastCommand
      split
      · exact k.rule _ _ _ _ recorded
      · exact k.mgmt _ recorded

/-- The check-byte moment of a command's frame. -/
theorem commandDone (via : Via) (seq : Seq) (code : CmdCode) (ops : List Byte) (h : P s) :
    P (s.commandDone via seq code ops) := by
  unfold State.commandDone
  split
  · exact k.wholePass h
  · exact k.takeCommand _ _ _ _ (k.wholePass h)

/-- R43, R48, R49: the local effect of a frame that carries a tag. -/
theorem tagEffect (kind : TagKind) (tag : Tag) (copy : EntryCopy) (h : P s) : P (s.tagEffect kind tag copy) := by
  unfold State.tagEffect
  dsimp only
  split
  · split
    · exact k.repeated h
    · exact k.put _ _ _ (k.runtime _ _ h)
  · exact k.runtime _ _ h
  · exact k.runtime _ _ h
  · exact h

/-- R20: the local effect of a frame that has passed its check. -/
theorem localEffect (h : P s) : P s.localEffect := by
  unfold State.localEffect
  split
  · exact h
  · split
    · exact k.tagEffect _ _ _ h
    · exact h
    · unfold State.commandEffect
      dsimp only
      repeat' split
      · exact k.takeCommand _ _ _ _ h
      · exact k.takeCommand _ _ _ _ h
      · exact h
    · exact h
    · exact h

/-- R12, R20, R23: the check byte. -/
theorem takeCheck (b : Byte) (h : P s) : P ((s.setRx .idle).takeCheck b) := by
  unfold State.takeCheck
  split
  · unfold State.passEffect
    split
    · exact k.mark _ _ _ _ (k.runtime _ _ (k.checkAgrees b h))
    · exact k.localEffect (k.postAll _ (k.checkAgrees b h))
  · exact k.checkFails h

/-- R120: a seen edge. -/
theorem seeEdge (i : CapIn) (l : Level) (h : P s) : P (s.seeEdge i l) := by
  unfold State.seeEdge
  dsimp only
  split
  · exact k.captureEvent _ (k.capture _ _ h)
  · exact k.capture _ _ h

/-- R120: a capture pin takes a level. -/
theorem pinChange (i : CapIn) (l : Level) (h : P s) : P (s.pinChange i l) := by
  unfold State.pinChange
  dsimp only
  repeat' split
  case isTrue => exact k.capture _ _ h
  case isFalse.isTrue => exact k.capture _ _ h
  case isFalse.isFalse.isTrue => exact k.capture _ _ h
  case isFalse.isFalse.isFalse.isTrue => exact k.seeEdge _ _ (k.capture _ _ h)
  case isFalse.isFalse.isFalse.isFalse => exact k.capture _ _ h

/-- The rows of the RESET pin, of a check byte and of the blocks behind the ports. -/
theorem blockRow {c : Instr} {t : State} (isBlock : isBlockRow c = true) (h : P s)
    (taken : exec c s = .next t) : P t := by
  rcases exec_next c s t taken with ⟨-, rfl⟩ | ⟨dt, i, l, -, -, rfl⟩ | rfl
  · exact k.time _ h
  · exact k.capture _ _ (k.time _ h)
  · have later : P (s.after c.dt) := k.time _ h
    cases c with
    | resetAssert => exact k.resetLow later
    | resetRelease => exact k.release _ _ _ later
    | checkByte => exact k.takeCheck _ later
    | lineQuiet dt =>
      show P (if (s.after dt).quietDue then _ else match (s.after dt).metNow with
        | some limit => _
        | none => _)
      repeat' split
      · exact k.quietExpires later
      · exact k.metExpires _ later
      · exact later
    | wrap => exact k.wrap later
    | widthPhaseStart dt d =>
      have row : execWidthPhaseStart dt d s = .next _ := taken
      rcases event_next row with ⟨-, same⟩ | ⟨-, canStart, -, -⟩
      · rw [same]; exact later
      · exact k.phaseStart d canStart later
    | widthPhaseEnd => exact k.phaseEnd _ later
    | shotDelayEnd => exact k.delayEnd _ later
    | shotEnd => exact k.shotEnd _ later
    | capturePinChange dt i l =>
      show P (if (s.after dt).caps[i].pin = l then _ else _)
      split
      · exact later
      · exact k.pinChange _ _ later
    | captureEdge dt i =>
      show P (s.after dt |>.pendingEdge i)
      unfold State.pendingEdge
      split
      · exact k.seeEdge _ _ later
      · exact later
    | captureOverflow => exact k.capture _ _ later
    | settlingEnd => exact k.scan _ later
    | conversionEnd dt v =>
      show P (match (s.after dt).sampler.scan with
        | .converting pos _ => match (s.after dt).sampler.list[pos.val]? with
          | some a => (s.after dt).convert pos a v
          | none => s.after dt
        | _ => s.after dt)
      repeat' split
      · exact k.convert _ _ _ later
      · exact later
      · exact later
    | _ => cases isBlock

/-- Every command that is taken keeps the predicate. -/
theorem exec {c : Instr} {t : State} (h : P s) (taken : Machine.exec c s = .next t) : P t := by
  rcases row_kinds c with isPort | ⟨row, isRow⟩ | isBlock
  · rcases exec_next c s t taken with ⟨-, rfl⟩ | ⟨dt, i, l, rfl, -, -⟩ | rfl
    · exact k.time _ h
    · cases isPort
    · exact k.port c isPort (k.time _ h)
  · obtain ⟨code, ops, -, runs⟩ := exec_of_rowOf isRow
    rw [runs s] at taken
    rcases command_next taken with ⟨-, rfl⟩ | ⟨-, -, rfl⟩
    · exact k.time _ h
    · exact k.commandDone _ _ _ _ (k.time _ h)
  · exact k.blockRow isBlock h taken

/-- Every step keeps the predicate. -/
theorem step {t : State} (h : P s) (taken : Machine.step s = .next t) : P t := by
  unfold Machine.step at taken
  split at taken
  · cases taken; exact h
  · exact k.exec (k.queue _ h) taken

end

end KeptByEveryPart

/-- A rule whose operands are faulty changes nothing, so it keeps what its own action keeps. -/
theorem checked_keeps {P : State → Prop} {checks : List Check} {s : State} {act : Ruling} (found : P s)
    (acted : P act.state) : P (checked checks s act).state := by
  rcases checked_state checks s act with same | same
  · rw [same]; exact found
  · rw [same]; exact acted

/-- A loop over the groups keeps what each of its turns keeps. -/
theorem State.eachGroup_keeps {P : State → Prop} {p : Group → Bool} {f : Group → State → State}
    (turn : ∀ g {t : State}, p g = true → P t → P (f g t)) {s : State} (h : P s) : P (s.eachGroup p f) := by
  unfold State.eachGroup
  refine List.foldlRecOn allGroups _ h fun t ht g _ => ?_
  split
  case isTrue acts => exact turn g acts ht
  case isFalse => exact ht

/-- A loop of commit requests keeps what each of them keeps. -/
theorem State.requestCommits_keeps {P : State → Prop} {src : Source} {p : Group → Bool}
    (request : ∀ g {t : State}, P t → P (t.requestCommit src g)) {s : State} (h : P s) :
    P (s.requestCommits src p) :=
  State.eachGroup_keeps (fun g _ _ => request g) h

end Sys2Proof.Machine
end

section
/-!
PROOFS. The two queues (R26, R27, R182, R183): what can happen to the event queue and to the relay queue in
one step, said once for both, and that their bounds and the consecutive stamps are kept.
-/

namespace Sys2Proof.Machine

/-- A predicate on the two queues: it is kept where no event is lost or made and the relay queue gets no
longer, by a posting, by a byte that joins, by an acknowledgement, and by a reset. -/
structure KeptByQueues (P : State → Prop) : Prop where
  less : ∀ {s t : State}, t.events = s.events → t.relay.length ≤ s.relay.length → P s → P t
  post : ∀ {s : State} (p : Posting), P s → P (s.post p)
  joined : ∀ {s : State} (v : Byte) (m : Marker), P s → P (s.joined v m)
  joinUp : ∀ {s : State} (v : Byte) (m : Marker), P s → P (s.joinUp v m)
  acknowledge : ∀ {s : State} (n : Nat), P s →
    P { s with events := { s.events with queue := s.events.queue.drop n } }
  clearLost : ∀ {s : State}, P s → P { s with events := { s.events with lost := 0 } }
  reset : ∀ {s t : State}, t.events = .reset → t.relay.length ≤ s.relay.length → P s → P t

namespace KeptByQueues

section
variable {P : State → Prop} (k : KeptByQueues P) {s t : State}
include k

theorem same (h : P s) (events : t.events = s.events) (relay : t.relay = s.relay) : P t :=
  k.less events (Nat.le_of_eq (congrArg List.length relay)) h

theorem postAll (ps : List Posting) (h : P s) : P (s.postAll ps) :=
  List.foldlRecOn ps _ h fun _ ht p _ => k.post p ht

theorem postBoth (xs ys : List Posting) (h : P s) : P (s.postBoth xs ys) :=
  k.postAll _ (k.same h rfl rfl)

theorem joinDown (v : Byte) (m : Marker) (h : P s) : P (s.joinDown v m) := k.postAll _ (k.joined v m h)

theorem abandon (n : Nat) (h : P s) : P (s.abandon n) := k.less (by simp) (s.abandon_length n) h

theorem abandonLive (h : P s) : P s.abandonLive := by
  unfold State.abandonLive
  split
  · exact k.abandon _ h
  · exact h

theorem lineError (e : LineError) (h : P s) : P (s.lineError e) := k.abandonLive (k.same h rfl rfl)

theorem endResponse (h : P s) : P s.endResponse := by
  unfold State.endResponse
  dsimp only
  split
  · exact k.same h rfl rfl
  · exact k.same h rfl rfl

/-! ### The bytes of a frame -/

theorem takeRate (span : Time) (v : Byte) (h : P s) : P (s.takeRate span v) := by
  unfold State.takeRate
  repeat' split
  · exact k.lineError _ (k.same h rfl rfl)
  · exact k.lineError _ (k.same h rfl rfl)
  · exact k.lineError _ (k.same h rfl rfl)
  · exact k.same h rfl rfl

theorem openFrame (b : Byte) (head : Head) (copy : Option EntryCopy) (f : FrameForward) (n : Bool) (h : P s) :
    P (s.openFrame b head copy f n) := k.joinDown _ _ (k.same h rfl rfl)

theorem takeAddress (b : Byte) (h : P s) : P (s.takeAddress b) := by
  unfold State.takeAddress
  split
  · exact k.lineError _ h
  · unfold State.openTagged
    dsimp only
    split
    · exact k.openFrame _ _ _ _ _ h
    · exact k.openFrame _ _ _ _ _ (k.same h rfl rfl)
  · exact k.openFrame _ _ _ _ _ h

theorem releaseHeld (h : P s) : P s.releaseHeld := k.joinDown _ _ (k.joinDown _ _ (k.same h rfl rfl))

theorem relayOrListen (n : Nat) (h : P s) : P (s.relayOrListen n) := by
  unfold State.relayOrListen
  split <;> exact k.same h rfl rfl

theorem settleAnswer (head : Head) (n : Nat) (h : P s) : P (s.settleAnswer head n) := by
  unfold State.settleAnswer
  dsimp only
  repeat' split
  case h_1.isTrue => exact k.same h rfl rfl
  case h_2.isTrue.isTrue => exact k.same h rfl rfl
  case h_2.isTrue.isFalse => exact k.same h rfl rfl
  all_goals exact k.relayOrListen _ h

theorem takeLength (b : Byte) (h : P s) : P (s.takeLength b) := by
  have recorded : P (s.recordLength b s.fc.head) := by
    unfold State.recordLength
    dsimp only
    split <;> exact k.same h rfl rfl
  unfold State.takeLength
  dsimp only
  split
  · exact k.lineError _ h
  · split
    · exact recorded
    · split
      · exact k.settleAnswer _ _ (k.joinDown _ _ recorded)
      · repeat' split
        · exact k.same (k.releaseHeld recorded) rfl rfl
        · exact k.same recorded rfl rfl
        · exact k.same (k.joinDown _ _ recorded) rfl rfl

theorem settlePending (b : Byte) (h : P s) : P (s.settlePending b) := by
  unfold State.settlePending
  split
  · exact k.same h rfl rfl
  · exact k.releaseHeld h

theorem appended (b : Byte) (t : State) (h : P t) :
    P (if t.fc.data.length < (t.fc.count.getD 0).val then t.joinDown b .body
      else { t.joinDown b .body with fc := { (t.joinDown b .body).fc with state := .check } }) := by
  have joined : P (t.joinDown b .body) := k.joinDown b .body h
  split
  · exact joined
  · exact k.same joined rfl rfl

theorem takeData (b : Byte) (h : P s) : P (s.takeData b) := by
  have settled : P (if s.fc.forward = some .pending then s.settlePending b else s) := by
    split
    · exact k.settlePending b h
    · exact h
  unfold State.takeData
  split
  · exact k.lineError _ h
  · generalize (if s.fc.forward = some .pending then s.settlePending b else s) = u at settled ⊢
    exact k.appended b _ (k.same settled rfl rfl)

/-! ### Responses and the DOWN port -/

theorem deliver (h : P s) : P s.deliver := by
  have passed : P ({ s.finish .sent with up := { (s.finish .sent).up with tx := none, resp := [] } } : State).pass :=
    k.postAll _ (k.same h rfl rfl)
  unfold State.deliver State.deliveredEffect
  dsimp only
  repeat' split
  · exact passed
  · exact k.same passed rfl rfl
  · exact k.same passed rfl rfl
  · exact passed

theorem conflict (h : P s) : P s.conflict := by
  have cut : P (if s.fc.state = .responding then s.cutServe else s) := by
    unfold State.cutServe
    repeat' split
    · exact k.same h rfl rfl
    · exact h
    · exact h
  unfold State.conflict
  dsimp only
  split
  · exact k.abandon _ (k.post _ (k.same cut rfl rfl))
  · exact k.post _ (k.same cut rfl rfl)

theorem sendOwn (h : P s) : P s.sendOwn := by
  unfold State.sendOwn
  split
  · exact h
  · exact k.same h rfl rfl

theorem afterUpByte (h : P s) : P s.afterUpByte := by
  unfold State.afterUpByte
  repeat' split
  · exact k.sendOwn h
  · exact k.same h rfl rfl
  · exact k.less (by simp) s.relayNext_length h
  · exact k.same h rfl rfl

theorem downThen {f : State → State} (next : P s → P (f s)) (h : P s) : P (s.downThen f) := by
  unfold State.downThen
  split
  · exact k.same h rfl rfl
  · exact next h

theorem downNext (h : P s) : P s.downNext := k.less (by simp) s.downNext_length h

theorem afterDownByte (h : P s) : P s.afterDownByte := by
  unfold State.afterDownByte
  repeat' split
  · exact k.downThen k.downNext h
  · refine k.downThen (fun hu => ?_) h
    exact k.same hu rfl rfl
  · refine k.downThen (fun hu => ?_) h
    exact k.same hu rfl rfl
  · exact k.downThen k.downNext h
  · exact k.downThen k.downNext h

theorem downConflict (h : P s) : P s.downConflict := by
  refine k.post _ (k.less (s := s) ?_ ?_ h)
  · simp
  · simp only [State.countDownConflict_frame, State.dropRelay_relay, State.dropEntries_relay]
    exact List.length_filter_le _ _

theorem respTimeout (h : P s) : P s.respTimeout := by
  have ended : P s.unanswered := by
    unfold State.unanswered
    split
    · exact k.same h rfl rfl
    · exact h
  exact k.post _ (k.same ended rfl rfl)

/-- The ports' rows. -/
theorem port (c : Instr) (isPort : isPortRow c = true) (h : P s) : P (s.effect c) := by
  cases c with
  | strayLow =>
    show P s.shortLowEnds
    unfold State.shortLowEnds
    split <;> exact k.same h rfl rfl
  | frameAbort => exact k.abandonLive (k.post _ (k.same h rfl rfl))
  | lineStuck dt port =>
    cases port with
    | up => exact k.post _ (k.same h rfl rfl)
    | down =>
      have posted := k.post (stuckPosting .down)
        (k.same (t := { s with down := { s.down with state := .stuck, low := none } }) h rfl rfl)
      exact k.less (t := State.stuckDrop _) (by simp) (State.stuckDrop_length _) posted
  | stuckEnd dt port => cases port <;> exact k.same h rfl rfl
  | rateByte => exact k.takeRate _ _ h
  | rateLimit => exact k.lineError _ (k.same h rfl rfl)
  | addressByte => exact k.takeAddress _ (k.same h rfl rfl)
  | lengthByte => exact k.takeLength _ (k.same h rfl rfl)
  | dataByte => exact k.takeData _ (k.same h rfl rfl)
  | framingError => exact k.lineError _ (k.same h rfl rfl)
  | gapError => exact k.lineError _ (k.same h rfl rfl)
  | ownResponseStart => exact k.sendOwn h
  | upByteSent => exact k.afterUpByte h
  | responseDelivered => exact k.deliver h
  | upConflict => exact k.conflict h
  | regenerationStart =>
    show P s.regenerate
    unfold State.regenerate
    split
    · exact h
    · exact k.same h rfl rfl
  | downBreakEnd =>
    exact k.downThen (f := fun s => { s with down := { s.down with state := .delimiter, since := s.now } })
      (fun hu => k.same hu rfl rfl) h
  | downByteSent => exact k.afterDownByte h
  | downConflict => exact k.downConflict h
  | downBreak => exact k.post _ (k.same h rfl rfl)
  | respTimeout => exact k.respTimeout h
  | downResponseByte => exact k.joinUp _ _ (k.same h rfl rfl)
  | downResponseCheck => exact k.joinUp _ _ (k.same h rfl rfl)
  | downResponseFraming | downResponseGap => exact k.endResponse (k.same h rfl rfl)
  | downResponseBreak => exact k.same (k.endResponse h) rfl rfl
  | upBreak | unanswered | delimiterEnd | foreignLow | foreignLowIgnored | upLowSeen =>
    exact k.same h rfl rfl
  | _ => cases isPort

/-! ### The other blocks -/

theorem takeCauses (p : Group → Bool) (cause : Cause) (h : P s) : P (s.takeCauses p cause).1 :=
  k.same h (by simp) (by simp)

theorem cycleStart (posts : List Posting) (h : P s) : P (s.cycleStart posts) := by
  have events : (s.cycleStart posts).events = (s.postAll (s.startPostings posts)).events := by
    rw [(State.cycleStart_spec posts s).1, State.postAll_events]
  exact k.same (k.postAll (s.startPostings posts) h) events (by simp)

theorem handleMark (number : Byte) (mask : GroupSet) (entry : TagEntry) (posts : List Posting) (h : P s) :
    P (s.handleMark number mask entry posts) := by
  have synced {u : State} (hu : P u) : P (u.markSync entry.cycleSync number posts) := by
    unfold State.markSync
    split
    · exact k.cycleStart _ (k.same (k.postAll _ hu) rfl rfl)
    · exact k.postAll _ hu
  exact k.same (synced (k.same (t := { s with lastMark := { cycle := some number, groups := mask &&& entry.filter } })
      h rfl rfl)) (by simp [State.handleMark]) (by simp [State.handleMark])

theorem limitCheck (a : AnIn) (v : BitVec 10) (h : P s) : P (s.limitCheck a v) := by
  unfold State.limitCheck
  dsimp only
  repeat' split
  · exact h
  · exact k.postBoth _ _ (k.takeCauses _ _ (k.same h rfl rfl))
  · exact k.same h rfl rfl

theorem startGroup (g : Group) (h : P s) : P (s.startGroup g) := k.post _ (k.same h rfl rfl)

/-- The management rules. Postings come of SWAP_BANKS, the station commands, GROUP_START, CONFIG_CYCLE and
SOFT_RESET; EVENT_ACK, CLEAR_COUNTS and SOFT_RESET take from the queues. -/
theorem rule (via : Via) (carrier : Option Nat) (code : CmdCode) (ops : List Byte) (h : P s) :
    P (runRule via carrier code ops s).state := by
  cases code with
  | ping | readStatus | copyBank | sampleNow | eventRead => exact k.same h rfl rfl
  | readCounts | readSamples =>
    refine checked_keeps h ?_
    repeat' split
    all_goals exact h
  | clearCounts => exact k.same (k.clearLost h) rfl rfl
  | assignStation =>
    cases via with
    | own => exact h
    | broadcast =>
      show P (if s.assigned = true then _ else _ : Ruling).state
      split
      · exact h
      · exact checked_keeps h (k.post _ (k.same h rfl rfl))
  | unassign => exact k.post _ (k.same h rfl rfl)
  | softReset => exact k.post _ (k.reset rfl (List.length_filter_le _ _) h)
  | writeTag =>
    refine checked_keeps h ?_
    dsimp only
    split <;> exact k.same h rfl rfl
  | swapBanks =>
    show P (ruleSwapBanks s).state
    unfold ruleSwapBanks
    split
    · exact h
    · exact k.post _ (k.same h rfl rfl)
  | configCycle =>
    refine checked_keeps h ?_
    dsimp only
    split
    · exact h
    · exact k.cycleStart _ (k.same h rfl rfl)
  | configChannel =>
    refine checked_keeps h ?_
    dsimp only
    repeat' split
    all_goals exact k.same h rfl rfl
  | configGroup =>
    refine checked_keeps h ?_
    dsimp only
    split <;> exact k.same h rfl rfl
  | groupStart =>
    refine checked_keeps h ?_
    exact State.eachGroup_keeps (f := State.startGroup) (fun g _ _ ht => k.startGroup g ht) h
  | groupStop =>
    refine checked_keeps h ?_
    exact State.eachGroup_keeps (f := State.stopGroup) (fun _ _ _ ht => k.same ht rfl rfl) h
  | groupResume =>
    refine checked_keeps h ?_
    exact State.eachGroup_keeps (f := State.resumeGroup) (fun _ _ _ ht => k.same ht rfl rfl) h
  | commit => exact checked_keeps h (k.same h (by simp) (by simp))
  | readChannel =>
    refine checked_keeps h ?_
    dsimp only
    split
    · exact h
    · dsimp only
      split <;> exact k.same h rfl rfl
  | writeSource =>
    refine checked_keeps h ?_
    dsimp only
    split <;> exact k.same h rfl rfl
  | writePubmap =>
    refine checked_keeps h ?_
    dsimp only
    split <;> exact k.same h rfl rfl
  | readPublish =>
    refine checked_keeps h ?_
    unfold rulePublishSource
    dsimp only
    repeat' split
    all_goals exact k.same h rfl rfl
  | eventAck =>
    show P (ruleEventAck _ s).state
    unfold ruleEventAck
    dsimp only
    split
    · exact k.acknowledge _ h
    · exact h
  | setLine | readTag | writeUnpack | readUnpack | configCapture | readCapture | configSampler | setLimits =>
    exact checked_keeps h (k.same h rfl rfl)

/-- A predicate on the two queues is kept by every part of every command. -/
theorem everyPart : KeptByEveryPart P where
  time _ h := k.same h rfl rfl
  queue _ h := k.same h rfl rfl
  resetLow {s} h := k.less (s := s) rfl (Nat.zero_le _) h
  release {s} _ _ _ h := k.reset (s := s) rfl (Nat.zero_le _) h
  port c isPort h := k.port c isPort h
  checkFails h := k.lineError _ (k.same h rfl rfl)
  checkAgrees _ h := k.same (k.joined _ _ (k.same (t := State.setRx .idle _) h rfl rfl)) rfl rfl
  pass h := k.same h rfl rfl
  postAll ps h := k.postAll ps h
  repeated h := k.same h rfl rfl
  runtime _ _ h := k.same h rfl rfl
  put _ _ _ h := k.same h (by simp) (by simp)
  mark _ _ _ _ h := k.handleMark _ _ _ _ h
  mgmt _ h := k.same h rfl rfl
  rule _ _ _ _ h := k.rule _ _ _ _ h
  quietExpires h := k.postBoth _ _ (k.takeCauses _ _ (k.same h rfl rfl))
  metExpires _ h := k.postBoth _ _ (k.takeCauses _ _ (k.same h rfl rfl))
  wrap h := k.cycleStart _ (k.same h rfl rfl)
  phaseStart _ _ h := k.same h rfl rfl
  phaseEnd _ h := k.same h rfl rfl
  delayEnd _ h := k.same h rfl rfl
  shotEnd _ h := k.same h rfl rfl
  capture _ _ h := k.same h rfl rfl
  captureEvent _ h := k.same h (by simp) (by simp)
  scan _ h := k.same h rfl rfl
  convert _ _ _ h := k.limitCheck _ _ (k.same h rfl rfl)

end

end KeptByQueues

/-! ### The event queue -/

/-- R183: the stamps of a queue are consecutive and end before the next one. -/
def stampsBefore (next : Byte) (q : List Event) : Prop :=
  ∀ i e, q[i]? = some e → e.stamp = next - BitVec.ofNat 8 (q.length - i)

theorem stampsBefore_drop {next : Byte} {q : List Event} (n : Nat) (h : stampsBefore next q) :
    stampsBefore next (q.drop n) := by
  intro i e found
  rw [List.getElem?_drop] at found
  rw [h _ e found, List.length_drop, Nat.sub_sub]

/-- A posted entry takes the next stamp (R183). -/
theorem stampsBefore_concat {next : Byte} {q : List Event} {e : Event} (h : stampsBefore next q)
    (stamp : e.stamp = next) : stampsBefore (next + 1) (q ++ [e]) := by
  intro i x found
  rw [List.length_append, List.length_singleton]
  rcases Nat.lt_trichotomy i q.length with older | new | beyond
  · rw [List.getElem?_append_left older] at found
    rw [h i x found, show q.length + 1 - i = (q.length - i) + 1 by omega, BitVec.ofNat_add]
    bv_omega
  · subst new
    rw [List.getElem?_concat_length] at found
    cases found
    rw [stamp, Nat.add_sub_cancel_left]
    bv_omega
  · rw [List.getElem?_eq_none (by simp; omega)] at found
    cases found

/-- A full queue gives up its oldest entry, so a posting keeps the stamps consecutive. -/
theorem State.post_eventsOk {s : State} (p : Posting) (h : Claims.eventsOk s) : Claims.eventsOk (s.post p) := by
  obtain ⟨bound, stamps⟩ := h
  show Claims.eventsOk { s with events := s.events.post s.cycle.number p }
  unfold EventBlock.post
  dsimp only
  split
  case isTrue room =>
    exact ⟨by simpa using room, stampsBefore_concat stamps rfl⟩
  case isFalse =>
    exact ⟨by simpa using by omega, stampsBefore_concat (stampsBefore_drop 1 stamps) rfl⟩

theorem eventsOk_of_reset {t : State} (events : t.events = .reset) : Claims.eventsOk t := by
  unfold Claims.eventsOk
  rw [events]
  exact ⟨Nat.zero_le _, fun i e found => by cases found⟩

/-- The event queue's invariant speaks of the queue and of the next stamp only. -/
theorem eventsOk_kept : KeptByQueues Claims.eventsOk where
  less events _ h := by unfold Claims.eventsOk at h ⊢; rw [events]; exact h
  post p h := State.post_eventsOk p h
  joined v m h := by unfold Claims.eventsOk at h ⊢; simpa using h
  joinUp v m h := by unfold Claims.eventsOk at h ⊢; simpa using h
  acknowledge n h := ⟨(by simpa using (Nat.sub_le _ n).trans h.1), stampsBefore_drop n h.2⟩
  clearLost h := h
  reset events _ _ := eventsOk_of_reset events

/-! ### The relay queue -/

theorem relayOk_kept : KeptByQueues Claims.relayOk where
  less _ shorter h := shorter.trans h
  post _ h := h
  joined v m h := State.joined_length v m _ h
  joinUp v m h := State.joinUp_length v m _ h
  acknowledge _ h := h
  clearLost h := h
  reset _ shorter h := shorter.trans h

/-- Settles O56: each queue's invariant, by the one account of what a step does to the queues. -/
theorem stepKeepsQueuesWithinBounds : Obligations.StepKeepsQueuesWithinBounds :=
  ⟨fun _ _ h taken => eventsOk_kept.everyPart.step h taken,
   fun _ _ h taken => relayOk_kept.everyPart.step h taken⟩

end Sys2Proof.Machine
end

section
/-!
PROOFS. The drive channels and the groups (R68, R88): what every part of a step but a reset, CONFIG_CHANNEL
and GROUP_START does to them, and that records stay empty where they must be and leaders below their followers.
-/

namespace Sys2Proof.Machine

/-- R68: nothing is staged and nothing is armed. -/
def Channel.unstaged (c : Channel) : Prop :=
  c.stage.setpoint = none ∧ c.stage.delay = none ∧ c.armed.setpoint = none ∧ c.armed.delay = none

/-- R68, R91 and R106: what the state of a channel's group asks of the channel. -/
def Channel.restsIn (st : GroupState) (c : Channel) : Prop :=
  (st = .fallback → c.unstaged) ∧
  (st = .stopped → c.unstaged ∧ c.active = { setpoint := 0, delay := 0 } ∧ c.shot = .idle ∧ c.latch = false ∧
    c.phase = false ∧ c.override = .none)

theorem channelOk_iff (s : State) (d : Chan) :
    Claims.channelOk s d ↔ s.chans[d].restsIn s.groups[s.chans[d].config.group].state := Iff.rfl

/-- RUN and RESUMING ask nothing. -/
theorem Channel.restsIn_of_commits {st : GroupState} (h : st.commits = true) (c : Channel) : c.restsIn st :=
  ⟨fun e => by (subst e; cases h), fun e => by (subst e; cases h)⟩

/-- What a channel of a STOPPED group holds is right in every state. -/
theorem Channel.restsIn.anywhere {c : Channel} (h : c.restsIn .stopped) (st : GroupState) : c.restsIn st :=
  ⟨fun _ => (h.2 rfl).1, fun _ => h.2 rfl⟩

/-- A channel that keeps its records, and at rest also its shot, keeps what its group's state asks. -/
theorem Channel.restsIn.agrees {a b : Channel} {st : GroupState} (h : a.restsIn st) (same : a.agrees b)
    (shot : st = .stopped → b.shot = a.shot) : b.restsIn st := by
  obtain ⟨sh, ig, rfl⟩ := same
  refine ⟨h.1, fun stopped => ?_⟩
  obtain ⟨unstaged, active, idle, latch, phase, override⟩ := h.2 stopped
  exact ⟨unstaged, active, (shot stopped).trans idle, latch, phase, override⟩

theorem Channel.stopped_restsIn (c : Channel) (st : GroupState) : c.stopped.restsIn st :=
  Channel.restsIn.anywhere (st := st) ⟨nofun, fun _ => ⟨⟨rfl, rfl, rfl, rfl⟩, rfl, rfl, rfl, rfl, rfl⟩⟩

/-- R109: a channel that enters FALLBACK has nothing staged and nothing armed. -/
theorem Channel.enterFallback_restsIn (c : Channel) : c.enterFallback.restsIn .fallback := by
  refine ⟨fun _ => ?_, nofun⟩
  unfold Channel.enterFallback
  split <;> exact ⟨rfl, rfl, rfl, rfl⟩

theorem Channel.restsIn.started {c : Channel} {st : GroupState} (h : c.restsIn st) : c.started.restsIn st :=
  ⟨h.1, fun stopped => ⟨(h.2 stopped).1, (h.2 stopped).2.1, rfl, rfl, rfl, rfl⟩⟩

/-- What happens to the channels and the groups in every part of a step but a reset, CONFIG_CHANNEL and
GROUP_START: no configuration changes, a channel goes on holding what its group's state asks, and no STOPPED
group begins to run. -/
structure State.drivesTo (s t : State) : Prop where
  config : ∀ d : Chan, t.chans[d].config = s.chans[d].config
  rests : ∀ d : Chan, s.chans[d].restsIn s.groups[s.chans[d].config.group].state →
    t.chans[d].restsIn t.groups[s.chans[d].config.group].state
  running : ∀ g : Group, t.groups[g].state ≠ .stopped → s.groups[g].state ≠ .stopped

namespace State.drivesTo

theorem same {s t : State} (chans : t.chans = s.chans) (groups : t.groups = s.groups) : s.drivesTo t where
  config d := by rw [chans]
  rests d h := by rw [chans, groups]; exact h
  running g h := by rw [groups] at h; exact h

theorem trans {s t u : State} (h : s.drivesTo t) (k : t.drivesTo u) : s.drivesTo u where
  config d := (k.config d).trans (h.config d)
  rests d rests := by
    have inT := h.rests d rests
    have inU := k.rests d (by simp only [h.config d]; exact inT)
    simp only [h.config d] at inU
    exact inU
  running g running := h.running g (k.running g running)

/-- A change of one channel. -/
theorem setChan {s : State} (d : Chan) (c : Channel) (config : c.config = s.chans[d].config)
    (rests : s.chans[d].restsIn s.groups[s.chans[d].config.group].state →
      c.restsIn s.groups[s.chans[d].config.group].state) : s.drivesTo (s.setChan d c) where
  config e := by
    rw [State.setChan_read]
    split
    case isTrue here => rw [config, here]
    case isFalse => rfl
  rests e h := by
    show (s.setChan d c).chans[e].restsIn s.groups[s.chans[e].config.group].state
    rw [State.setChan_read]
    split
    case isTrue here => subst here; exact rests h
    case isFalse => exact h
  running _ h := h

/-- A change of one group, with its channels. -/
theorem group {s t : State} (g : Group) (r : GroupRec) (f : Channel → Channel)
    (groups : t.groups = s.groups.set g r)
    (chans : ∀ d : Chan, t.chans[d] = if s.chans[d].config.group = g then f s.chans[d] else s.chans[d])
    (config : ∀ c : Channel, (f c).config = c.config)
    (rests : ∀ c : Channel, c.restsIn s.groups[g].state → (f c).restsIn r.state)
    (running : r.state ≠ .stopped → s.groups[g].state ≠ .stopped) : s.drivesTo t where
  config d := by
    rw [chans]
    split
    · exact config _
    · rfl
  rests d h := by
    rw [chans, groups, Vector.read_set]
    split
    case isTrue here => subst here; exact rests _ h
    case isFalse => exact h
  running h := by
    rw [groups, Vector.read_set]
    split
    case isTrue here => subst here; exact running
    case isFalse => exact id

/-- A change of one group that asks nothing new of its channels. -/
theorem setGroup {s : State} (g : Group) (r : GroupRec)
    (rests : ∀ c : Channel, c.restsIn s.groups[g].state → c.restsIn r.state)
    (running : r.state ≠ .stopped → s.groups[g].state ≠ .stopped) : s.drivesTo (s.setGroup g r) :=
  .group g r id rfl (fun d => (ite_self s.chans[d]).symm) (fun _ => rfl) rests running

/-- A sweep over the channels, whose own effects keep what a group's state asks. -/
theorem drive {s : State} {own : Chan → Channel → Channel × Bool}
    (config : ∀ d c, (own d c).1.config = c.config)
    (rests : ∀ d : Chan, s.chans[d].restsIn s.groups[s.chans[d].config.group].state →
      (own d s.chans[d]).1.restsIn s.groups[s.chans[d].config.group].state) : s.drivesTo (s.drive own) where
  config d := State.drive_config own s config d
  rests d h := by
    show (s.drive own).chans[d].restsIn s.groups[s.chans[d].config.group].state
    rw [State.drive_get]
    generalize hE : sweepEnds s.now s.groups own s.chans (allChans.take d.val) = E
    obtain ⟨sh, led, -⟩ := Channel.led_eq s.now s.groups E (own d s.chans[d]).1
    refine (rests d h).agrees ⟨sh, (own d s.chans[d]).1.ignored, led⟩ fun stopped => ?_
    rw [Channel.led_barred]
    exact .inl (by simp only [config]; exact stopped)
  running _ h := h

end State.drivesTo

/-! ### Triggers and commits -/

theorem Channel.oneshotOn_config (src : ChanTrigger) (gs : Vector GroupRec 4) (now : Time) (c : Channel) :
    (c.oneshotOn src gs now).1.config = c.config := by
  obtain ⟨sh, ig, e⟩ := Channel.oneshotOn_eq src gs now c
  rw [e]

/-- R97: a trigger moves no shot of a STOPPED group. -/
theorem Channel.restsIn.oneshotOn {src : ChanTrigger} {gs : Vector GroupRec 4} {now : Time} {c : Channel}
    (h : c.restsIn gs[c.config.group].state) : (c.oneshotOn src gs now).1.restsIn gs[c.config.group].state :=
  h.agrees (Channel.oneshotOn_eq src gs now c) fun stopped => by rw [Channel.oneshotOn_barred _ _ _ _ (.inl stopped)]

theorem State.triggerCapture_drivesTo (k : CapIn) (s : State) : s.drivesTo (s.triggerCapture k) :=
  .drive (fun _ _ => Channel.oneshotOn_config ..) fun _ h => h.oneshotOn

theorem State.triggerCommit_drivesTo (g : Group) (s : State) : s.drivesTo (s.triggerCommit g) := by
  refine .drive (fun d c => ?_) fun d h => ?_
  · split
    · exact Channel.oneshotOn_config ..
    · rfl
  · split
    · exact h.oneshotOn
    · exact h

theorem Channel.recover_config (c : Channel) : c.recover.config = c.config := by
  unfold Channel.recover
  split <;> rfl

/-- R66, R67 and R114: a commit is accepted in RUN and RESUMING only, and leads to one of them. -/
theorem State.requestCommit_drivesTo (src : Source) (g : Group) (s : State) :
    s.drivesTo (s.requestCommit src g) := by
  unfold State.requestCommit
  split
  case isFalse => exact .same rfl rfl
  case isTrue accepted =>
    have commits : s.groups[g].state.commits = true := by
      unfold GroupRec.accepts at accepted
      exact (Bool.and_eq_true_iff.mp accepted).2
    have state : (s.groups[g].committed src).state = s.groups[g].state := by
      unfold GroupRec.committed
      split <;> rfl
    have stays : s.groups[g].state ≠ .stopped := fun stopped => by rw [stopped] at commits; cases commits
    unfold State.acceptCommit
    generalize (decide (s.groupState g = .resuming) && decide (src ≠ .auto)) = recovering
    dsimp only
    have moved : s.drivesTo ((s.mapGroupChans g fun c =>
        if recovering then c.recover.commit else c.commit).setGroup g (s.groups[g].committed src)) := by
      refine .group g _ (fun c => if recovering then c.recover.commit else c.commit) rfl
        (State.mapGroupChans_get g _ s) (fun c => ?_) (fun c _ => ?_) (fun _ => stays)
      · split
        · rw [Channel.commit_config, Channel.recover_config]
        · exact Channel.commit_config c
      · exact Channel.restsIn_of_commits (by rw [state]; exact commits) _
    have running : ((s.mapGroupChans g fun c => if recovering then c.recover.commit else c.commit).setGroup g
        (s.groups[g].committed src)).groups[g].state ≠ .stopped := by
      rw [State.setGroup_read, if_pos rfl, state]
      exact stays
    generalize State.setGroup g (s.groups[g].committed src) _ = u at moved running ⊢
    have triggered := moved.trans (State.triggerCommit_drivesTo g u)
    have still : (u.triggerCommit g).groups[g].state ≠ .stopped := by simpa using running
    generalize u.triggerCommit g = t at triggered still ⊢
    split
    · exact triggered.trans
        (State.drivesTo.setGroup g _ (fun c _ => Channel.restsIn_of_commits rfl c) fun _ => still)
    · exact triggered

theorem State.requestCommits_drivesTo (src : Source) (p : Group → Bool) (s : State) :
    s.drivesTo (s.requestCommits src p) :=
  State.requestCommits_keeps (P := s.drivesTo) (fun g _ h => h.trans (State.requestCommit_drivesTo src g _))
    (.same rfl rfl)

/-- R63: only a channel of a RUN or RESUMING group takes a value. -/
theorem State.stageOne_drivesTo (tag : Tag) (v : Destined) (s : State) : s.drivesTo (s.stageOne tag v) := by
  unfold State.stageOne
  dsimp only
  split
  case isTrue => exact .same rfl rfl
  case isFalse taken =>
    refine .setChan _ _ rfl fun _ => Channel.restsIn_of_commits ?_ _
    unfold GroupState.commits
    rw [Bool.not_eq_true] at taken
    exact congrArg not taken

theorem State.countDiscards_drivesTo (vs : List Destined) (s : State) : s.drivesTo (s.countDiscards vs) := by
  unfold State.countDiscards
  refine List.foldlRecOn allGroups _ (.same rfl rfl) fun t h g _ => ?_
  split
  · exact h.trans (.setGroup g _ (fun _ => id) id)
  · exact h

/-- R48 and R62 to R65: an accepted PUT. -/
theorem State.applyPut_drivesTo (tag : Tag) (data : List Byte) (copy : EntryCopy) (s : State) :
    s.drivesTo (s.applyPut tag data copy) := by
  have staged : s.drivesTo (s.stagePut tag data copy.unpack) := by
    unfold State.stagePut
    exact List.foldlRecOn _ _ (State.countDiscards_drivesTo _ s) fun t h v _ =>
      h.trans (State.stageOne_drivesTo tag v t)
  unfold State.applyPut
  dsimp only
  split
  · exact staged.trans (State.requestCommits_drivesTo _ _ _)
  · exact staged

/-! ### Fallback causes and cycle starts -/

/-- R109: the groups that enter FALLBACK were not STOPPED. -/
theorem State.takeCauses_drivesTo (p : Group → Bool) (cause : Cause) (s : State) :
    s.drivesTo (s.takeCauses p cause).1 := by
  obtain ⟨-, groups, chans, -⟩ := State.takeCauses_spec p cause s
  refine ⟨fun d => ?_, fun d h => ?_, fun g => ?_⟩
  · rw [chans]
    split
    · exact Channel.enterFallback_config _
    · rfl
  · rw [chans, groups]
    split
    · exact Channel.enterFallback_restsIn _
    · exact h
  · rw [groups]
    split
    case isTrue entered =>
      intro _ stopped
      have enters := entered.2
      unfold State.enters at enters
      rw [stopped] at enters
      cases enters
    case isFalse => exact id

theorem Channel.settled_unstaged {live : Active} {r : GroupRec} {c : Channel} (h : c.unstaged) :
    (c.settled live r).unstaged := by
  unfold Channel.settled
  repeat' split
  all_goals exact h

/-- R82: a cycle start does nothing to a channel of a STOPPED group. -/
theorem Channel.cycled_of_stopped {r : GroupRec} (h : r.state = .stopped) (c : Channel) : c.cycled r = c := by
  have copied : c.copied r = c := by
    unfold Channel.copied
    rw [h]; rfl
  have worked : c.worked r = c := by
    unfold Channel.worked Channel.autoed GroupRec.accepts Channel.supervised
    rw [h]
    simp [GroupState.commits, GroupState.discards]
  unfold Channel.cycled Channel.settled
  rw [copied, worked, if_pos ((GroupRec.supervised_stopped r).mpr h)]

theorem GroupRec.supervised_of_not_run {r : GroupRec} (h : r.state ≠ .run) : GroupRec.supervised r = r := by
  unfold GroupRec.supervised
  rw [if_pos h]

/-- R115: a RUN group goes on, or falls back and empties its channels. -/
theorem Channel.worked_restsIn {r : GroupRec} (h : r.state = .run) (c : Channel) :
    (c.worked r).restsIn (GroupRec.supervised r).state := by
  unfold Channel.worked Channel.supervised GroupRec.supervised
  have running : ¬ r.state ≠ .run := fun k => k h
  simp only [if_neg running]
  split
  · exact Channel.enterFallback_restsIn _
  · refine Channel.restsIn_of_commits ?_ _
    split
    · rw [h]; rfl
    · rw [h]; rfl

/-- R69, R70, R108 and R115: what a cycle start leaves in a channel is what its group's new state asks. -/
theorem Channel.restsIn.cycled {c : Channel} {r : GroupRec} (h : c.restsIn r.state) :
    (c.cycled r).restsIn (GroupRec.supervised r).state := by
  rcases hr : r.state with _ | _ | _ | _
  case stopped =>
    rw [Channel.cycled_of_stopped hr, GroupRec.supervised_of_not_run (by rw [hr]; nofun)]
    exact h
  case run =>
    have worked := Channel.worked_restsIn hr (c.copied r)
    refine ⟨fun fell => Channel.settled_unstaged (worked.1 fell), fun stopped => ?_⟩
    rw [(GroupRec.supervised_stopped r).mp stopped] at hr
    cases hr
  case fallback =>
    have notRun : r.state ≠ .run := by rw [hr]; nofun
    have same : (c.copied r).worked r = c := by
      unfold Channel.worked Channel.copied Channel.autoed GroupRec.accepts Channel.supervised
      rw [hr]
      simp [GroupState.commits, GroupState.discards]
    rw [GroupRec.supervised_of_not_run notRun, hr]
    refine ⟨fun _ => ?_, nofun⟩
    unfold Channel.cycled
    rw [same]
    exact Channel.settled_unstaged (h.1 hr)
  case resuming =>
    rw [GroupRec.supervised_of_not_run (by rw [hr]; nofun)]
    exact Channel.restsIn_of_commits (by rw [hr]; rfl) _

/-- R82: a cycle start. -/
theorem State.cycleStart_drivesTo (posts : List Posting) (s : State) : s.drivesTo (s.cycleStart posts) := by
  obtain ⟨-, groups, chans, -⟩ := State.cycleStart_spec posts s
  refine ⟨fun d => ?_, fun d h => ?_, fun g => ?_⟩
  · rw [(chans d _ rfl).config]
    unfold Channel.cycled
    rw [Channel.settled_config, Channel.worked_config, Channel.copied_config]
  · rw [groups]
    refine h.cycled.agrees (chans d _ rfl) fun stopped => ?_
    have still := (GroupRec.supervised_stopped _).mp stopped
    rw [Channel.cycled_of_stopped still]
    exact (State.cycleStart_barred posts s d _ rfl (.inl still)).1
  · rw [groups]
    exact mt (GroupRec.supervised_stopped _).mpr

end Sys2Proof.Machine
end

section
/-!
PROOFS. Which management rules can change the drive channels and groups, the tag banks, and the settings of
the cycle counter, of the sampler and of the publish unit (R168, step 3): every other rule keeps them.
-/

namespace Sys2Proof.Machine

/-- R104: a group is in the set of the groups for which a test holds if the test holds for it. -/
theorem groupSetOf_has (p : Group → Bool) (g : Group) : GroupSet.has (groupSetOf p) g = p g := by
  have bit (b : Bool) (x : GroupSet) (i : Nat) : (if b then x else 0).getLsbD i = (b && x.getLsbD i) := by
    cases b <;> simp
  unfold GroupSet.has groupSetOf
  simp only [BitVec.getLsbD_or, bit]
  fin_cases g <;> simp

/-- The commands whose rules change channels or groups. -/
def CmdCode.drives : CmdCode → Bool
  | .softReset | .configCycle | .configChannel | .configGroup | .groupStart | .groupStop | .groupResume | .commit
  | .readChannel => true
  | _ => false

/-- The commands whose rules change a tag bank. -/
def CmdCode.writesBanks : CmdCode → Bool
  | .softReset | .writeTag | .writeUnpack | .swapBanks | .copyBank => true
  | _ => false

/-- The commands whose rules change the period, a limit window, a source or a publish map. -/
def CmdCode.sets : CmdCode → Bool
  | .softReset | .configCycle | .setLimits | .writeSource | .writePubmap => true
  | _ => false

/-- What the rule of a command keeps. -/
structure State.ruledBy (s : State) (code : CmdCode) (t : State) : Prop where
  drive : code.drives = false → t.chans = s.chans ∧ t.groups = s.groups
  banks : code.writesBanks = false → t.tags.active = s.tags.active ∧ t.tags.shadow = s.tags.shadow
  settings : code.sets = false → t.cycle.period = s.cycle.period ∧ t.sampler.inputs = s.sampler.inputs ∧
    t.publish.source = s.publish.source ∧ t.publish.maps = s.publish.maps

theorem State.ruledBy.refl (s : State) (code : CmdCode) : s.ruledBy code s :=
  ⟨fun _ => ⟨rfl, rfl⟩, fun _ => ⟨rfl, rfl⟩, fun _ => ⟨rfl, rfl, rfl, rfl⟩⟩

/-- A rule behind its operand checks. -/
theorem State.ruledBy.checked {s : State} {code : CmdCode} {checks : List Check} {act : Ruling}
    (h : s.ruledBy code act.state) : s.ruledBy code (checked checks s act).state :=
  checked_keeps (.refl s code) h

/-- A loop over groups that leaves the banks and the settings alone. -/
theorem State.eachGroup_ruledBy {s : State} {code : CmdCode} {p : Group → Bool} {f : Group → State → State}
    (drives : code.drives = true)
    (turn : ∀ g (t : State), (f g t).tags = t.tags ∧ (f g t).cycle = t.cycle ∧ (f g t).sampler = t.sampler ∧
      (f g t).publish = t.publish) : s.ruledBy code (s.eachGroup p f) := by
  have kept : (s.eachGroup p f).tags = s.tags ∧ (s.eachGroup p f).cycle = s.cycle ∧
      (s.eachGroup p f).sampler = s.sampler ∧ (s.eachGroup p f).publish = s.publish := by
    refine State.eachGroup_keeps (P := fun t => t.tags = s.tags ∧ t.cycle = s.cycle ∧ t.sampler = s.sampler ∧
      t.publish = s.publish) (fun g t _ ⟨tags, cycle, sampler, publish⟩ => ?_) ⟨rfl, rfl, rfl, rfl⟩
    obtain ⟨tags', cycle', sampler', publish'⟩ := turn g t
    exact ⟨tags'.trans tags, cycle'.trans cycle, sampler'.trans sampler, publish'.trans publish⟩
  obtain ⟨tags, cycle, sampler, publish⟩ := kept
  refine ⟨fun h => ?_, fun _ => ⟨by rw [tags], by rw [tags]⟩,
    fun _ => ⟨by rw [cycle], by rw [sampler], by rw [publish], by rw [publish]⟩⟩
  rw [drives] at h
  cases h

/-- R134 and R135: a trigger leaves the inputs' windows alone. -/
theorem Sampler.triggered_inputs (now : Time) (sm : Sampler) : (sm.trigger now).inputs = sm.inputs := by
  unfold Sampler.trigger
  split <;> rfl

/-- R168, step 3: a rule changes the blocks of its own command only. -/
theorem runRule_ruledBy (via : Via) (carrier : Option Nat) (code : CmdCode) (ops : List Byte) (s : State) :
    s.ruledBy code (runRule via carrier code ops s).state := by
  have same {t : State} (tags : t.tags = s.tags) (chans : t.chans = s.chans) (groups : t.groups = s.groups)
      (cycle : t.cycle = s.cycle) (inputs : t.sampler.inputs = s.sampler.inputs)
      (source : t.publish.source = s.publish.source) (maps : t.publish.maps = s.publish.maps) :
      s.ruledBy code t :=
    ⟨fun _ => ⟨chans, groups⟩, fun _ => ⟨by rw [tags], by rw [tags]⟩,
      fun _ => ⟨by rw [cycle], inputs, source, maps⟩⟩
  cases code with
  | ping | readStatus | eventRead | clearCounts | unassign =>
    exact same rfl rfl rfl rfl rfl rfl rfl
  | sampleNow =>
    refine same rfl rfl rfl rfl ?_ rfl rfl
    exact Sampler.triggered_inputs _ _
  | setLine | readTag | readUnpack | configCapture | readCapture | configSampler =>
    exact .checked (same rfl rfl rfl rfl rfl rfl rfl)
  | readCounts | readSamples =>
    refine .checked ?_
    repeat' split
    all_goals exact .refl s _
  | assignStation =>
    cases via with
    | own => exact .refl s _
    | broadcast =>
      show s.ruledBy _ (if s.assigned = true then _ else _ : Ruling).state
      split
      · exact .refl s _
      · exact .checked (same rfl rfl rfl rfl rfl rfl rfl)
  | readPublish =>
    refine .checked ?_
    unfold rulePublishSource
    dsimp only
    repeat' split
    all_goals exact same rfl rfl rfl rfl rfl rfl rfl
  | eventAck =>
    show s.ruledBy _ (ruleEventAck _ s).state
    unfold ruleEventAck
    dsimp only
    split
    · exact same rfl rfl rfl rfl rfl rfl rfl
    · exact .refl s _
  | softReset => exact ⟨nofun, nofun, nofun⟩
  | writeTag =>
    refine .checked ?_
    dsimp only
    split
    · exact .refl s _
    · exact ⟨fun _ => ⟨rfl, rfl⟩, nofun, fun _ => ⟨rfl, rfl, rfl, rfl⟩⟩
  | writeUnpack => exact .checked ⟨fun _ => ⟨rfl, rfl⟩, nofun, fun _ => ⟨rfl, rfl, rfl, rfl⟩⟩
  | copyBank => exact ⟨fun _ => ⟨rfl, rfl⟩, nofun, fun _ => ⟨rfl, rfl, rfl, rfl⟩⟩
  | swapBanks =>
    show s.ruledBy _ (ruleSwapBanks s).state
    unfold ruleSwapBanks
    split
    · exact .refl s _
    · exact ⟨fun _ => ⟨rfl, rfl⟩, nofun, fun _ => ⟨rfl, rfl, rfl, rfl⟩⟩
  | configCycle =>
    refine .checked ?_
    dsimp only
    split
    · exact .refl s _
    · exact ⟨nofun, fun _ => ⟨by simp [State.configCycle], by simp [State.configCycle]⟩, nofun⟩
  | setLimits => exact .checked ⟨fun _ => ⟨rfl, rfl⟩, fun _ => ⟨rfl, rfl⟩, nofun⟩
  | writeSource | writePubmap =>
    refine .checked ?_
    dsimp only
    split
    · exact .refl s _
    · exact ⟨fun _ => ⟨rfl, rfl⟩, fun _ => ⟨rfl, rfl⟩, nofun⟩
  | configChannel =>
    refine .checked ?_
    dsimp only
    repeat' split
    · exact .refl s _
    · exact .refl s _
    · exact ⟨nofun, fun _ => ⟨rfl, rfl⟩, fun _ => ⟨rfl, rfl, rfl, rfl⟩⟩
  | configGroup =>
    refine .checked ?_
    dsimp only
    split
    · exact .refl s _
    · exact ⟨nofun, fun _ => ⟨rfl, rfl⟩, fun _ => ⟨rfl, rfl, rfl, rfl⟩⟩
  | groupStart =>
    refine .checked ?_
    exact State.eachGroup_ruledBy (f := State.startGroup) rfl fun _ _ => ⟨rfl, rfl, rfl, rfl⟩
  | groupStop =>
    refine .checked ?_
    exact State.eachGroup_ruledBy (f := State.stopGroup) rfl fun _ _ => ⟨rfl, rfl, rfl, rfl⟩
  | groupResume =>
    refine .checked ?_
    exact State.eachGroup_ruledBy (f := State.resumeGroup) rfl fun _ _ => ⟨rfl, rfl, rfl, rfl⟩
  | commit =>
    refine .checked ⟨nofun, fun _ => ?_, fun _ => ?_⟩
    · dsimp only
      exact ⟨by simp, by simp⟩
    · dsimp only
      exact ⟨by simp, by simp, by simp, by simp⟩
  | readChannel =>
    refine .checked ?_
    dsimp only
    repeat' split
    · exact .refl s _
    · exact ⟨nofun, fun _ => ⟨rfl, rfl⟩, fun _ => ⟨rfl, rfl, rfl, rfl⟩⟩
    · exact .refl s _

end Sys2Proof.Machine
end

section
/-!
PROOFS. Stopped and fallen groups stay empty, and leaders stay below their followers (R68, R88), by the one
account of what a step does to the drive channels and the groups.
-/

namespace Sys2Proof.Machine

/-- A predicate on the channels and groups that everything of `State.drivesTo` keeps, and that GROUP_START,
CONFIG_CHANNEL and a reset keep. -/
structure KeptByDrive (P : State → Prop) : Prop where
  moves : ∀ {s t : State}, s.drivesTo t → P s → P t
  start : ∀ {s : State} {acted : Group → Bool}, (∀ g, acted g = true → startable s g = true) → P s →
    P (s.eachGroup acted State.startGroup)
  configure : ∀ {s : State} (d : Chan) (config : ChanConfig),
    s.groupState s.chans[d].config.group = .stopped → channelEntryFault s d config = none → P s →
    P (s.setChan d (s.chans[d].configured config (s.groupState config.group)))
  reset : ∀ {t : State}, t.chans = Vector.replicate 6 .reset → t.groups = Vector.replicate 4 .reset → P t

/-! ### Group commands -/

theorem State.stopGroup_drivesTo (g : Group) (s : State) : s.drivesTo (s.stopGroup g) :=
  .group g _ Channel.stopped rfl (State.mapGroupChans_get g _ s) (fun _ => rfl)
    (fun c _ => c.stopped_restsIn _) (fun h => absurd rfl h)

/-- R113: only a group in FALLBACK is resumed. -/
theorem State.resumeGroups_drivesTo {s : State} {acted : Group → Bool}
    (fallen : ∀ g, acted g = true → s.groupState g = .fallback) :
    s.drivesTo (s.eachGroup acted State.resumeGroup) := by
  refine State.eachGroup_keeps (P := s.drivesTo) (fun g t acts h => ?_) (.same rfl rfl)
  have resumes (c : Channel) : c.restsIn .resuming := Channel.restsIn_of_commits rfl c
  refine ⟨h.config, fun d rests => ?_, fun e => ?_⟩
  · show t.chans[d].restsIn (t.setGroup g _).groups[s.chans[d].config.group].state
    rw [State.setGroup_read]
    split
    · exact resumes _
    · exact h.rests d rests
  · show (t.setGroup g _).groups[e].state ≠ .stopped → _
    rw [State.setGroup_read]
    split
    case isTrue here =>
      subst here
      have inFallback : s.groups[e].state = .fallback := fallen e acts
      exact fun _ => by rw [inFallback]; nofun
    case isFalse => exact h.running e

theorem State.mapChans_drivesTo {s t : State} {f : Channel → Channel} (chans : t.chans = mapChans f s.chans)
    (groups : t.groups = s.groups) (config : ∀ c : Channel, (f c).config = c.config)
    (rests : ∀ (c : Channel) (st : GroupState), c.restsIn st → (f c).restsIn st) : s.drivesTo t := by
  refine ⟨fun d => ?_, fun d h => ?_, fun g h => ?_⟩
  · rw [chans, mapChans_read, config]
  · rw [chans, groups, mapChans_read]
    exact rests _ _ h
  · rw [groups] at h
    exact h

/-- R92: RESET low ends every channel's running state. -/
theorem State.heldInReset_drivesTo (s : State) : s.drivesTo s.heldInReset :=
  State.mapChans_drivesTo (f := Channel.heldInReset) rfl rfl (fun _ => rfl) fun _ _ h => h.started

/-- R78: clearing a channel's counts. -/
theorem State.clearChannelCounts_drivesTo (d : Chan) (s : State) : s.drivesTo (s.clearChannelCounts d) := by
  unfold State.clearChannelCounts
  refine .trans (.setChan d _ ?_ ?_) (.setGroup _ _ ?_ ?_)
  · rfl
  · exact id
  · exact fun _ => id
  · exact id

namespace KeptByDrive

section
variable {P : State → Prop} (k : KeptByDrive P) {s t : State}
include k

theorem same (h : P s) (chans : t.chans = s.chans) (groups : t.groups = s.groups) : P t :=
  k.moves (.same chans groups) h

theorem postAll (ps : List Posting) (h : P s) : P (s.postAll ps) := k.same h (by simp) (by simp)

theorem postBoth (xs ys : List Posting) (h : P s) : P (s.postBoth xs ys) := k.same h (by simp) (by simp)

theorem samplerEvent (src : SamplerSource) (h : P s) : P (s.samplerEvent src) := k.same h (by simp) (by simp)

theorem takeCauses (p : Group → Bool) (cause : Cause) (h : P s) : P (s.takeCauses p cause).1 :=
  k.moves (State.takeCauses_drivesTo p cause s) h

theorem startRule (h : P s) (mask : Byte) : P (ruleGroupStart mask s).state := by
  refine checked_keeps h ?_
  refine k.start (fun g acts => ?_) h
  rw [groupSetOf_has] at acts
  exact (Bool.and_eq_true_iff.mp acts).2

theorem resumeRule (h : P s) (mask : Byte) : P (ruleGroupResume mask s).state := by
  refine checked_keeps h ?_
  refine k.moves (State.resumeGroups_drivesTo fun g acts => ?_) h
  rw [groupSetOf_has] at acts
  exact of_decide_eq_true (Bool.and_eq_true_iff.mp acts).2

theorem configRule (h : P s) (chan mode group polarity leader trigger retrigger action : Byte) :
    P (ruleConfigChannel chan mode group polarity leader trigger retrigger action s).state := by
  refine checked_keeps h ?_
  dsimp only
  split
  case isTrue => exact h
  case isFalse stopped =>
    split
    case h_1 => exact h
    case h_2 sound => exact k.configure _ _ (not_not.mp stopped) sound h

/-- The management rules. -/
theorem rule (via : Via) (carrier : Option Nat) (code : CmdCode) (ops : List Byte) (h : P s) :
    P (runRule via carrier code ops s).state := by
  cases drives : code.drives
  case false =>
    obtain ⟨chans, groups⟩ := (runRule_ruledBy via carrier code ops s).drive drives
    exact k.same h chans groups
  case true =>
    cases code with
    | softReset => exact k.reset rfl rfl
    | configCycle =>
      refine checked_keeps h ?_
      dsimp only
      split
      · exact h
      · exact k.moves (State.cycleStart_drivesTo _ _) (k.same h rfl rfl)
    | configChannel => exact k.configRule h ..
    | configGroup =>
      refine checked_keeps h ?_
      dsimp only
      split
      · exact h
      · exact k.moves (.setGroup _ _ (fun _ => id) id) h
    | groupStart => exact k.startRule h _
    | groupStop =>
      refine checked_keeps h ?_
      exact State.eachGroup_keeps (f := State.stopGroup)
        (fun g _ _ ht => k.moves (State.stopGroup_drivesTo g _) ht) h
    | groupResume => exact k.resumeRule h _
    | commit => exact checked_keeps h (k.moves (State.requestCommits_drivesTo _ _ _) h)
    | readChannel =>
      refine checked_keeps h ?_
      dsimp only
      repeat' split
      · exact h
      · exact k.moves (State.clearChannelCounts_drivesTo _ _) h
      · exact h
    | _ => cases drives

theorem handleMark (number : Byte) (mask : GroupSet) (entry : TagEntry) (posts : List Posting) (h : P s) :
    P (s.handleMark number mask entry posts) := by
  have synced {u : State} (hu : P u) : P (u.markSync entry.cycleSync number posts) := by
    unfold State.markSync
    split
    · exact k.moves (State.cycleStart_drivesTo _ _) (k.same (k.postAll _ hu) rfl rfl)
    · exact k.postAll _ hu
  unfold State.handleMark
  exact k.moves (State.requestCommits_drivesTo _ _ _) (k.samplerEvent _ (synced (k.same h rfl rfl)))

theorem limitCheck (a : AnIn) (v : BitVec 10) (h : P s) : P (s.limitCheck a v) := by
  unfold State.limitCheck
  dsimp only
  repeat' split
  · exact h
  · exact k.postBoth _ _ (k.takeCauses _ _ (k.same h rfl rfl))
  · exact k.same h rfl rfl

/-- A shot's delay ends only where a shot is under way, so not in a STOPPED group. -/
theorem delayEnds (d : Chan) (h : P s) :
    P (s.setChan d { s.chans[d] with shot := s.chans[d].shot.afterDelay s.now }) := by
  refine k.moves (.setChan d _ rfl fun rests => rests.agrees ⟨_, _, rfl⟩ fun stopped => ?_) h
  obtain ⟨-, -, idle, -⟩ := rests.2 stopped
  show s.chans[d].shot.afterDelay s.now = s.chans[d].shot
  rw [idle]
  rfl

/-- R95: a phase begins in a group that is not STOPPED. -/
theorem phaseStarts (d : Chan) (canStart : s.phaseCanStart d = true) (h : P s) :
    P (s.setChan d { s.chans[d] with phase := true }) := by
  refine k.moves (.setChan d _ rfl fun rests => ⟨rests.1, fun stopped => ?_⟩) h
  unfold State.phaseCanStart at canStart
  simp only [Bool.and_eq_true, decide_eq_true_eq] at canStart
  obtain ⟨⟨-, runs⟩, -⟩ := canStart
  exact absurd stopped runs

theorem phaseEnds (d : Chan) (h : P s) : P (s.drive (onlyOn d Channel.endPhase)) := by
  refine k.moves (.drive (fun e c => ?_) fun e rests => ?_) h
  · unfold onlyOn
    split <;> rfl
  · unfold onlyOn
    split
    · refine ⟨rests.1, fun stopped => ?_⟩
      obtain ⟨unstaged, active, shot, latch, -, override⟩ := rests.2 stopped
      exact ⟨unstaged, active, shot, latch, rfl, override⟩
    · exact rests

theorem shotEnds (d : Chan) (h : P s) : P (s.drive (onlyOn d Channel.endShot)) := by
  refine k.moves (.drive (fun e c => ?_) fun e rests => ?_) h
  · unfold onlyOn
    split <;> rfl
  · unfold onlyOn
    split
    · refine rests.agrees ⟨_, _, rfl⟩ fun stopped => ?_
      obtain ⟨-, -, idle, -⟩ := rests.2 stopped
      exact idle.symm
    · exact rests

/-- Such a predicate is kept by every part of every command. -/
theorem everyPart : KeptByEveryPart P where
  time _ h := k.same h rfl rfl
  queue _ h := k.same h rfl rfl
  resetLow {s} h := k.moves s.heldInReset_drivesTo h
  release _ _ _ _ := k.reset rfl rfl
  port {s} c isPort h := by
    obtain ⟨-, -, -, -, -, -, chans, groups, -⟩ := s.effect_keepsBlocks c isPort
    exact k.same h chans groups
  checkFails h := k.same h (by simp) (by simp)
  checkAgrees _ h := k.same h (by simp) (by simp)
  pass h := k.same h (by simp) (by simp)
  postAll ps h := k.same h (by simp) (by simp)
  repeated h := k.same h (by simp) (by simp)
  runtime _ _ h := k.same h (by simp) (by simp)
  put _ _ _ h := k.moves (State.applyPut_drivesTo _ _ _ _) h
  mark _ _ _ _ h := k.handleMark _ _ _ _ h
  mgmt _ h := k.same h rfl rfl
  rule _ _ _ _ h := k.rule _ _ _ _ h
  quietExpires h := k.postBoth _ _ (k.takeCauses _ _ (k.same h rfl rfl))
  metExpires _ h := k.postBoth _ _ (k.takeCauses _ _ (k.same h rfl rfl))
  wrap h := k.moves (State.cycleStart_drivesTo _ _) (k.same h rfl rfl)
  phaseStart d canStart h := k.phaseStarts d canStart h
  phaseEnd d h := k.phaseEnds d h
  delayEnd d h := k.delayEnds d h
  shotEnd d h := k.shotEnds d h
  capture _ _ h := k.same h rfl rfl
  captureEvent _ h := k.samplerEvent _ (k.moves (State.triggerCapture_drivesTo _ _) h)
  scan _ h := k.same h rfl rfl
  convert _ _ _ h := k.limitCheck _ _ (k.same h rfl rfl)

end

end KeptByDrive

end Sys2Proof.Machine
end

section
/-!
PROOFS. R68 and R88 as invariants of every step.
-/

namespace Sys2Proof.Machine

/-! ### Records (R68) -/

/-- R91: the channels of a group that is started hold what RUN asks. -/
theorem State.startGroup_channelOk {s : State} (g : Group) (h : ∀ d : Chan, Claims.channelOk s d) (d : Chan) :
    Claims.channelOk (s.startGroup g) d := by
  have chan : (s.startGroup g).chans[d] =
      if s.chans[d].config.group = g then s.chans[d].started else s.chans[d] := State.mapGroupChans_get g _ s d
  have group (e : Group) : (s.startGroup g).groups[e].state = if e = g then .run else s.groups[e].state := by
    show (s.groups.set g _)[e].state = _
    rw [Vector.read_set]
    split <;> rfl
  rw [channelOk_iff, group, chan]
  split
  case isTrue here => exact Channel.restsIn_of_commits (if_pos here ▸ rfl) _
  case isFalse => exact h d

/-- R87: a channel that is configured comes from a STOPPED group, so it holds what any group asks. -/
theorem State.configured_channelOk {s : State} (d : Chan) (config : ChanConfig)
    (stopped : s.groupState s.chans[d].config.group = .stopped) (h : ∀ d : Chan, Claims.channelOk s d) (e : Chan) :
    Claims.channelOk (s.setChan d (s.chans[d].configured config (s.groupState config.group))) e := by
  by_cases here : e = d
  case neg =>
    have read : (s.setChan d (s.chans[d].configured config (s.groupState config.group))).chans[e] =
        s.chans[e] := by rw [State.setChan_read, if_neg here]
    rw [channelOk_iff]
    simp only [read]
    exact h e
  case pos =>
    subst here
    have read : (s.setChan e (s.chans[e].configured config (s.groupState config.group))).chans[e] =
        s.chans[e].configured config (s.groupState config.group) := by rw [State.setChan_read, if_pos rfl]
    obtain ⟨unstaged, active, idle, -⟩ := (h e).2 stopped
    rw [channelOk_iff]
    simp only [read]
    exact ⟨fun _ => unstaged, fun rests => ⟨unstaged, active, idle, rfl, rfl, by
      have state : s.groupState config.group = .stopped := rests
      unfold Channel.configured
      rw [state]⟩⟩

theorem channelsOk_kept : KeptByDrive fun s => ∀ d : Chan, Claims.channelOk s d where
  moves moved h d := by
    have rests := moved.rests d (h d)
    rw [channelOk_iff]
    simp only [moved.config d]
    exact rests
  start _ h := State.eachGroup_keeps (P := fun s => ∀ d : Chan, Claims.channelOk s d)
    (fun g _ _ => State.startGroup_channelOk g) h
  configure d config stopped _ h := State.configured_channelOk d config stopped h
  reset chans groups d := by
    have chan : ∀ e : Chan, (Vector.replicate 6 Channel.reset)[e] = Channel.reset := fun e => by simp
    unfold Claims.channelOk
    simp only [chans, groups, chan]
    exact ⟨fun _ => ⟨rfl, rfl, rfl, rfl⟩, fun _ => ⟨⟨rfl, rfl, rfl, rfl⟩, rfl, rfl, rfl, rfl, rfl⟩⟩

/-! ### Leaders (R88) -/

/-- R88: a FOLLOW channel has a lower-numbered leader that may lead. -/
def followsBelow (config : Chan → ChanConfig) (f : Chan) : Prop :=
  ∃ l : Chan, (config f).leader = some l ∧ l < f ∧ (config l).mode.mayLead = true

theorem mayLead_iff (m : ChanMode) : m.mayLead = true ↔ m = .width ∨ m = .oneshot ∨ m = .follow := by
  cases m <;> decide

theorem leadersOk_iff (chans : Vector Channel 6) (g : Group) : Claims.leadersOk chans g = true ↔
    ∀ f : Chan, chans[f].config.group = g → chans[f].config.mode = .follow →
      followsBelow (fun d => chans[d].config) f := by
  have all : ∀ f : Chan, f ∈ allChans := by decide
  unfold Claims.leadersOk followsBelow
  simp only [List.all_eq_true, decide_eq_true_eq, mayLead_iff]
  exact ⟨fun h f group mode => h f (all f) ⟨group, mode⟩, fun h f _ ⟨group, mode⟩ => h f group mode⟩

/-- R88: the leader test is the one that leaders stay below their followers. -/
theorem leaderTest_none {chans : Vector Channel 6} {f : Chan} {leader : Option Chan} :
    leaderTest chans f leader = none ↔
      ∃ l : Chan, leader = some l ∧ l < f ∧ chans[l].config.mode.mayLead = true := by
  unfold leaderTest
  cases leader with
  | none => simp
  | some l =>
    dsimp only
    split
    case isTrue above => simpa using fun below : l < f => absurd below (not_lt.mpr above)
    case isFalse below =>
      split
      case isTrue leads => exact ⟨fun _ => ⟨l, rfl, not_le.mp below, leads⟩, fun _ => rfl⟩
      case isFalse dumb =>
        refine ⟨nofun, fun ⟨m, named, _, leads⟩ => ?_⟩
        cases named
        exact absurd leads dumb

/-- What the followers' invariant speaks of. -/
theorem followersOk_iff (s : State) : Claims.followersOk s ↔ ∀ f : Chan, s.chans[f].config.mode = .follow →
    s.groups[s.chans[f].config.group].state ≠ .stopped → followsBelow (fun d => s.chans[d].config) f := by
  unfold Claims.followersOk
  simp only [leadersOk_iff]
  exact ⟨fun h f mode running => h _ running f rfl mode,
    fun h g running f group mode => h f mode (by simp only [group]; exact running)⟩

/-- R105: a group that GROUP_START acts on passes the leader test. -/
theorem startable_follows {s : State} {g : Group} (h : startable s g = true) (f : Chan)
    (group : s.chans[f].config.group = g) (mode : s.chans[f].config.mode = .follow) :
    followsBelow (fun d => s.chans[d].config) f := by
  have all : ∀ f : Chan, f ∈ allChans := by decide
  have sound := (Bool.and_eq_true_iff.mp h).2
  unfold groupLeaderFault at sound
  rw [Option.isNone_iff_eq_none, List.findSome?_eq_none_iff] at sound
  have tested := sound f (all f)
  rw [if_pos ⟨group, mode⟩, Option.map_eq_none_iff] at tested
  exact leaderTest_none.mp tested

/-- R105: GROUP_START keeps every configuration, and only the groups it acts on begin to run. -/
theorem State.startGroups_drive {s : State} (acted : Group → Bool) :
    (∀ d : Chan, (s.eachGroup acted State.startGroup).chans[d].config = s.chans[d].config) ∧
    ∀ g : Group, (s.eachGroup acted State.startGroup).groups[g].state ≠ .stopped →
      s.groups[g].state ≠ .stopped ∨ acted g = true := by
  refine State.eachGroup_keeps (P := fun t : State => (∀ d : Chan, t.chans[d].config = s.chans[d].config) ∧
      ∀ g : Group, t.groups[g].state ≠ .stopped → s.groups[g].state ≠ .stopped ∨ acted g = true)
    (fun g t acts ⟨config, running⟩ => ⟨fun d => ?_, fun e => ?_⟩) ⟨fun _ => rfl, fun _ => .inl⟩
  · have chan : (t.startGroup g).chans[d] =
        if t.chans[d].config.group = g then t.chans[d].started else t.chans[d] := State.mapGroupChans_get g _ t d
    rw [chan, ← config d]
    split <;> rfl
  · show (t.groups.set g _)[e].state ≠ .stopped → _
    rw [Vector.read_set]
    split
    case isTrue here => exact fun _ => .inr (here ▸ acts)
    case isFalse => exact running e

/-- R86: an accepted configuration keeps every running follower behind a leader that may lead. -/
theorem State.configured_followersOk {s : State} (d : Chan) (config : ChanConfig)
    (sound : channelEntryFault s d config = none) (h : Claims.followersOk s) :
    Claims.followersOk (s.setChan d (s.chans[d].configured config (s.groupState config.group))) := by
  have read (e : Chan) : (s.setChan d (s.chans[d].configured config (s.groupState config.group))).chans[e].config =
      if e = d then config else s.chans[e].config := by
    rw [State.setChan_read]
    split <;> rfl
  rw [followersOk_iff] at h ⊢
  simp only [read]
  have own : s.groupState config.group ≠ .stopped → config.mode = .follow →
      leaderTest s.chans d config.leader = none := by
    intro running mode
    unfold channelEntryFault at sound
    rw [if_pos ⟨running, mode⟩] at sound
    cases tested : leaderTest s.chans d config.leader with
    | none => rfl
    | some why => rw [tested] at sound; cases sound
  have led : config.mode.mayLead = true ∨ followerOf s.chans s.groups d = none := by
    unfold channelEntryFault at sound
    dsimp only at sound
    split at sound
    · cases sound
    · split at sound
      case isTrue leads => exact .inl leads
      case isFalse => exact .inr (Option.map_eq_none_iff.mp sound)
  intro f mode running
  by_cases here : f = d
  case pos =>
    simp only [if_pos here] at mode running
    obtain ⟨l, leader, below, leads⟩ := leaderTest_none.mp (own running mode)
    subst here
    refine ⟨l, ?_, below, ?_⟩
    · simp only [if_pos]
      exact leader
    · simp only [if_neg (ne_of_lt below)]
      exact leads
  case neg =>
    simp only [if_neg here] at mode running
    obtain ⟨l, leader, below, leads⟩ := h f mode running
    refine ⟨l, ?_, below, ?_⟩
    · simp only [if_neg here]
      exact leader
    · show (if l = d then config else s.chans[l].config).mode.mayLead = true
      split
      case isFalse => exact leads
      case isTrue leading =>
        subst leading
        refine led.resolve_right fun none => ?_
        have all : ∀ f : Chan, f ∈ allChans := by decide
        have deaf := List.find?_eq_none.mp none f (all f)
        refine deaf ?_
        rw [Bool.and_eq_true, Bool.and_eq_true]
        exact ⟨⟨decide_eq_true mode, decide_eq_true leader⟩, decide_eq_true running⟩

theorem followersOk_kept : KeptByDrive Claims.followersOk where
  moves moved h := by
    rw [followersOk_iff] at h ⊢
    simp only [moved.config]
    exact fun f mode running => h f mode (moved.running _ running)
  start {s acted} acts h := by
    obtain ⟨config, running⟩ := State.startGroups_drive (s := s) acted
    rw [followersOk_iff] at h ⊢
    simp only [config]
    intro f mode runs
    rcases running _ runs with ran | acted
    · exact h f mode ran
    · exact startable_follows (acts _ acted) f rfl mode
  configure d config _ sound h := State.configured_followersOk d config sound h
  reset chans groups := by
    have group : ∀ g : Group, (Vector.replicate 4 GroupRec.reset)[g] = GroupRec.reset := fun g => by simp
    intro g running
    rw [groups, group] at running
    exact absurd rfl running

/-- Settles O57: each invariant, by the one account of what a step does to the channels and the groups. -/
theorem stepKeepsDriveRecordsAndLeaders : Obligations.StepKeepsDriveRecordsAndLeaders :=
  ⟨fun _ _ h taken => channelsOk_kept.everyPart.step h taken,
   fun _ _ h taken => followersOk_kept.everyPart.step h taken⟩

end Sys2Proof.Machine
end

section
/-!
PROOFS. The soundness of a tag bank (R57, R58): what SWAP_BANKS' tests find, in the terms of R58.
-/

namespace Sys2Proof.Machine

/-- R44: an entry refers to a descriptor of its bank. -/
def TagEntry.lists (e : TagEntry) (k : Fin 48) : Prop :=
  e.unpackFirst.val ≤ k.val ∧ k.val < e.unpackFirst.val + e.unpackCount.val

/-- R58: a descriptor's bytes lie within an expected length. -/
def Descriptor.fits (expected : ExpectedLength) (d : Descriptor) : Prop :=
  ∃ n : Fin 17, expected = .exactly n ∧ d.offset.val + (if d.size = .two then 2 else 1) ≤ n.val

theorem Descriptor.within_iff (expected : ExpectedLength) (d : Descriptor) :
    d.within expected = true ↔ d.fits expected := by
  unfold Descriptor.within Descriptor.fits
  cases expected with
  | any => simp
  | exactly n => cases d.size <;> simp

theorem entrySound_iff (b : Bank) (e : TagEntry) : Claims.entrySound b e ↔
    (e.role = .consume → e.unpackFirst.val + e.unpackCount.val ≤ 48 ∧
      ∀ k : Fin 48, e.lists k → b.descriptors[k].fits e.expected) := by
  unfold Claims.entrySound TagEntry.lists Descriptor.fits
  simp only [and_imp]

/-- R44: entry i of an unpack list is descriptor first + i. -/
theorem unpackList_get (b : Bank) (e : TagEntry) (i : Nat) : (unpackList b e)[i]? =
    if i < e.unpackCount.val then b.descriptors[e.unpackFirst.val + i]? else none := by
  unfold unpackList
  rw [List.getElem?_take]
  split
  · rw [List.getElem?_drop, Vector.getElem?_toList]
  · rfl

section
variable {b : Bank} {e : TagEntry}

theorem entryFault_of_other (other : e.role ≠ .consume) : entryFault b e = none := if_pos other

theorem entryFault_list (consume : e.role = .consume) (beyond : 48 < e.unpackFirst.val + e.unpackCount.val) :
    entryFault b e = some .list := by
  unfold entryFault
  rw [if_neg (not_not.mpr consume), if_pos beyond]

theorem entryFault_within (consume : e.role = .consume) (within : e.unpackFirst.val + e.unpackCount.val ≤ 48) :
    entryFault b e = ((unpackList b e).findIdx? fun d => !d.within e.expected).map fun i =>
      .descriptor (e.unpackFirst.val + i) := by
  unfold entryFault
  rw [if_neg (not_not.mpr consume), if_neg (not_lt.mpr within)]

/-- The listed descriptors of an entry within its bank are the entries of its unpack list. -/
theorem listed_get {k : Fin 48} (listed : e.lists k) :
    (unpackList b e)[k.val - e.unpackFirst.val]? = some b.descriptors[k] := by
  obtain ⟨from_, below⟩ := listed
  rw [unpackList_get, if_pos (by omega), show e.unpackFirst.val + (k.val - e.unpackFirst.val) = k.val by omega]
  exact Vector.getElem?_eq_getElem k.isLt

theorem get_listed {i : Nat} {d : Descriptor} (found : (unpackList b e)[i]? = some d) :
    ∃ k : Fin 48, e.lists k ∧ k.val = e.unpackFirst.val + i ∧ b.descriptors[k] = d := by
  rw [unpackList_get] at found
  split at found
  case isTrue inList =>
    obtain ⟨inBank, read⟩ := Vector.getElem?_eq_some_iff.mp found
    exact ⟨⟨_, inBank⟩, ⟨Nat.le_add_right .., by dsimp only; omega⟩, rfl, read⟩
  case isFalse => cases found

/-- R57: the first descriptor that does not fit is the one that is named. -/
theorem entryFault_descriptor (consume : e.role = .consume)
    (within : e.unpackFirst.val + e.unpackCount.val ≤ 48) {k : Fin 48} (listed : e.lists k)
    (unfit : ¬b.descriptors[k].fits e.expected)
    (before : ∀ j : Fin 48, j < k → e.lists j → b.descriptors[j].fits e.expected) :
    entryFault b e = some (.descriptor k.val) := by
  have first : (unpackList b e).findIdx? (fun d => !d.within e.expected) = some (k.val - e.unpackFirst.val) := by
    obtain ⟨inList, read⟩ := List.getElem?_eq_some_iff.mp (listed_get (b := b) listed)
    refine List.findIdx?_eq_some_iff_getElem.mpr ⟨inList, ?_, fun j earlier => ?_⟩
    · rw [read, Bool.not_eq_true', ← Bool.not_eq_true, Descriptor.within_iff]
      exact unfit
    · obtain ⟨m, mListed, place, mRead⟩ := get_listed (List.getElem?_eq_getElem (Nat.lt_trans earlier inList))
      rw [← mRead, Bool.not_eq_true', Bool.not_eq_false, Descriptor.within_iff]
      exact before m (by rw [Fin.lt_def]; omega) mListed
  rw [entryFault_within consume within, first, Option.map_some, Nat.add_sub_cancel' listed.1]

/-- R57 and R58: an entry passes the tests if it is sound. -/
theorem entryFault_none_iff : entryFault b e = none ↔ Claims.entrySound b e := by
  rw [entrySound_iff]
  by_cases consume : e.role = .consume
  case neg => exact ⟨fun _ role => absurd role consume, fun _ => entryFault_of_other consume⟩
  case pos =>
    by_cases within : e.unpackFirst.val + e.unpackCount.val ≤ 48
    case neg =>
      rw [entryFault_list consume (not_le.mp within)]
      exact ⟨nofun, fun h => absurd (h consume).1 within⟩
    case pos =>
      rw [entryFault_within consume within, Option.map_eq_none_iff, List.findIdx?_eq_none_iff]
      simp only [Bool.not_eq_eq_eq_not, Bool.not_false, Descriptor.within_iff]
      refine ⟨fun all _ => ⟨within, fun k listed => ?_⟩, fun sound d member => ?_⟩
      · exact all _ (List.mem_of_getElem? (listed_get listed))
      · obtain ⟨i, found⟩ := List.getElem?_of_mem member
        obtain ⟨k, listed, -, read⟩ := get_listed found
        exact read ▸ (sound consume).2 k listed

end

/-- R57 and R58: a bank passes if it is sound. -/
theorem bankFault_none_iff (b : Bank) : bankFault b = none ↔ Claims.bankSound b := by
  unfold bankFault Claims.bankSound
  simp only [List.findSome?_eq_none_iff, Option.map_eq_none_iff, entryFault_none_iff]
  exact ⟨fun h tag => h tag (List.mem_finRange tag), fun h tag _ => h tag⟩

/-- A search through a type in rising order finds the lowest hit. -/
theorem findSome?_finRange_first {n : Nat} {α : Type} {f : Fin n → Option α} {k : Fin n} {a : α} (hit : f k = some a)
    (before : ∀ j : Fin n, j < k → f j = none) : (List.finRange n).findSome? f = some a := by
  have inList : k.val < (List.finRange n).length := by simp
  have read : (List.finRange n)[k.val] = k := by simp
  have split : List.finRange n = (List.finRange n).take k.val ++ k :: (List.finRange n).drop (k.val + 1) := by
    conv_lhs => rw [← List.take_append_drop k.val (List.finRange n), List.drop_eq_getElem_cons inList, read]
  rw [List.findSome?_eq_some_iff]
  refine ⟨_, k, _, split, hit, fun i earlier => ?_⟩
  obtain ⟨j, below, rfl⟩ := List.mem_take_iff_getElem.mp earlier
  refine before _ ?_
  simp only [List.getElem_finRange]
  exact Fin.lt_def.mpr (by simp at below ⊢; omega)

/-- R57: the lowest tag whose entry fails is the one that is named. -/
theorem bankFault_first {b : Bank} {tag : Tag} {why : SwapFault} (fails : entryFault b b.entries[tag] = some why)
    (before : ∀ i : Tag, i < tag → Claims.entrySound b b.entries[i]) : bankFault b = some (tag, why) :=
  findSome?_finRange_first (by rw [fails]; rfl) fun i earlier => by
    rw [entryFault_none_iff.mpr (before i earlier)]
    rfl

end Sys2Proof.Machine
end

section
/-!
PROOFS. The active tag bank stays sound (R51, R58), and the settings stay within their ranges (R80, R132,
R144, R152, R153): only a few management rules and a reset touch what these invariants speak of.
-/

namespace Sys2Proof.Machine

/-! ### Operand checks (R191) -/

theorem firstFault_none_iff (checks : List Check) : firstFault checks = none ↔ ∀ c ∈ checks, c.2 = true := by
  unfold firstFault
  rw [Option.map_eq_none_iff, List.find?_eq_none]
  simp

/-- A rule's own action runs on sound operands only. -/
theorem checked_keeps_sound {P : State → Prop} {checks : List Check} {s : State} {act : Ruling} (found : P s)
    (acted : (∀ c ∈ checks, c.2 = true) → P act.state) : P (checked checks s act).state := by
  cases fault : firstFault checks with
  | some pos => rw [checked_faulty fault]; exact found
  | none => rw [checked_sound fault]; exact acted ((firstFault_none_iff checks).mp fault)

theorem below_iff (n : Nat) (b : Byte) : below n b = true ↔ b.toNat < n := decide_eq_true_iff

theorem finOf_val {n : Nat} {b : Byte} (h : b.toNat < n) : finOf n b = some ⟨b.toNat, h⟩ := dif_pos h

/-! ### The banks and the settings -/

/-- No bank, no period, no limit window, no source and no publish map changes. -/
structure State.keepsSetup (s t : State) : Prop where
  active : t.tags.active = s.tags.active
  shadow : t.tags.shadow = s.tags.shadow
  period : t.cycle.period = s.cycle.period
  windows : ∀ a : AnIn, t.sampler.inputs[a].low = s.sampler.inputs[a].low ∧
    t.sampler.inputs[a].high = s.sampler.inputs[a].high
  source : t.publish.source = s.publish.source
  maps : t.publish.maps = s.publish.maps

/-- Where the blocks are the same, so are the banks and the settings. -/
theorem State.keepsSetup.of_blocks {s t : State} (tags : t.tags.active = s.tags.active)
    (shadow : t.tags.shadow = s.tags.shadow) (cycle : t.cycle.period = s.cycle.period)
    (inputs : t.sampler.inputs = s.sampler.inputs) (source : t.publish.source = s.publish.source)
    (maps : t.publish.maps = s.publish.maps) : s.keepsSetup t where
  active := tags
  shadow := shadow
  period := cycle
  windows a := by rw [inputs]; exact ⟨rfl, rfl⟩
  source := source
  maps := maps

/-- A predicate on the banks and the settings that the management rules and a reset keep. -/
structure KeptBySetup (P : State → Prop) : Prop where
  same : ∀ {s t : State}, P s → s.keepsSetup t → P t
  rule : ∀ {s : State} (via : Via) (carrier : Option Nat) (code : CmdCode) (ops : List Byte), P s →
    P (runRule via carrier code ops s).state
  reset : ∀ {t : State}, t.tags = .reset → t.cycle.period = 1000 → t.sampler.inputs = Vector.replicate 4 .reset →
    t.publish = .reset → P t

/-- R73: a MARK's restart leaves the period alone. -/
theorem State.markSync_period (sync : Bool) (number : Byte) (posts : List Posting) (s : State) :
    (s.markSync sync number posts).cycle.period = s.cycle.period := by
  unfold State.markSync State.markRestart
  split <;> simp

/-- R82 and R134: a cycle start leaves the sampler's windows alone. -/
theorem State.cycleStart_inputs (posts : List Posting) (s : State) :
    (s.cycleStart posts).sampler.inputs = s.sampler.inputs := by
  rw [(State.cycleStart_spec posts s).1]
  unfold Sampler.atEvent
  split
  · exact Sampler.triggered_inputs _ _
  · rfl

theorem State.markSync_inputs (sync : Bool) (number : Byte) (posts : List Posting) (s : State) :
    (s.markSync sync number posts).sampler.inputs = s.sampler.inputs := by
  unfold State.markSync State.markRestart
  split <;> simp [State.cycleStart_inputs]

theorem State.handleMark_keepsSetup (number : Byte) (mask : GroupSet) (entry : TagEntry) (posts : List Posting)
    (s : State) : s.keepsSetup (s.handleMark number mask entry posts) := by
  refine .of_blocks (by simp) (by simp) ?_ ?_ (by simp) (by simp)
  · simp [State.handleMark, State.markSync_period]
  · simp [State.handleMark, State.markSync_inputs]

/-- R139 and R140: a limit check writes the outside flag of its input only. -/
theorem State.limitCheck_sampler (a : AnIn) (v : BitVec 10) (s : State) :
    (s.limitCheck a v).sampler = s.sampler ∨ ∃ b, (s.limitCheck a v).sampler =
      { s.sampler with inputs := s.sampler.inputs.set a { s.sampler.inputs[a] with outside := b } } := by
  unfold State.limitCheck
  dsimp only
  repeat' split
  · exact .inl rfl
  · exact .inr ⟨true, by simp⟩
  · exact .inr ⟨false, rfl⟩

theorem State.limitCheck_windows (a e : AnIn) (v : BitVec 10) (s : State) :
    (s.limitCheck a v).sampler.inputs[e].low = s.sampler.inputs[e].low ∧
    (s.limitCheck a v).sampler.inputs[e].high = s.sampler.inputs[e].high := by
  rcases State.limitCheck_sampler a v s with same | ⟨b, flagged⟩
  · simp only [same, and_self]
  · simp only [flagged]
    rw [Vector.read_set]
    split
    case isTrue here => subst here; exact ⟨rfl, rfl⟩
    case isFalse => exact ⟨rfl, rfl⟩

theorem State.convert_keepsSetup (pos : Fin 4) (a : AnIn) (v : BitVec 10) (s : State) :
    s.keepsSetup (s.convert pos a v) := by
  refine ⟨by simp, by simp, by simp, fun e => ?_, by simp, by simp⟩
  unfold State.convert
  dsimp only
  obtain ⟨low, high⟩ := State.limitCheck_windows a e v { s with sampler := { s.sampler with
    inputs := s.sampler.inputs.set a (s.sampler.inputs[a].store v), scan := s.sampler.nextStep pos s.now } }
  rw [low, high]
  dsimp only
  rw [Vector.read_set]
  split
  case isTrue here => subst here; exact ⟨rfl, rfl⟩
  case isFalse => exact ⟨rfl, rfl⟩

namespace KeptBySetup

section
variable {P : State → Prop} (k : KeptBySetup P) {s t : State}
include k

theorem blocks (h : P s) (tags : t.tags.active = s.tags.active) (shadow : t.tags.shadow = s.tags.shadow)
    (cycle : t.cycle.period = s.cycle.period) (inputs : t.sampler.inputs = s.sampler.inputs)
    (source : t.publish.source = s.publish.source) (maps : t.publish.maps = s.publish.maps) : P t :=
  k.same h (.of_blocks tags shadow cycle inputs source maps)

/-- R109 and R117: groups that take a cause, with their postings. -/
theorem tripped (p : Group → Bool) {cause : Cause} {xs ys : List Posting} (h : P s) :
    P ((s.takeCauses p cause).1.postBoth xs ys) :=
  k.blocks h (by simp) (by simp) (by simp) (by simp) (by simp) (by simp)

theorem cycleStart (posts : List Posting) (h : P s) : P (s.cycleStart posts) :=
  k.blocks h (by simp) (by simp) (by simp) (State.cycleStart_inputs posts s) (by simp) (by simp)

/-- Such a predicate is kept by every part of every command. -/
theorem everyPart : KeptByEveryPart P where
  time _ h := k.blocks h rfl rfl rfl rfl rfl rfl
  queue _ h := k.blocks h rfl rfl rfl rfl rfl rfl
  resetLow h := k.blocks h rfl rfl rfl rfl rfl rfl
  release _ _ _ _ := k.reset rfl rfl rfl rfl
  port {s} c isPort h := by
    obtain ⟨-, -, -, -, active, shadow, -, -, -, cycle, -, sampler, source, maps, -⟩ :=
      s.effect_keepsBlocks c isPort
    exact k.blocks h active shadow (by rw [cycle]) (by rw [sampler]) source maps
  checkFails h := k.blocks h (by simp) (by simp) (by simp) (by simp) (by simp) (by simp)
  checkAgrees _ h := k.blocks h (by simp) (by simp) (by simp) (by simp) (by simp) (by simp)
  pass h := k.blocks h rfl rfl rfl rfl rfl rfl
  postAll ps h := k.blocks h (by simp) (by simp) (by simp) (by simp) (by simp) (by simp)
  repeated h := k.blocks h rfl rfl rfl rfl rfl rfl
  runtime _ _ h := k.blocks h rfl rfl rfl rfl rfl rfl
  put _ _ _ h := k.blocks h (by simp) (by simp) (by simp) (by simp) (by simp) (by simp)
  mark _ _ _ _ h := k.same h (State.handleMark_keepsSetup ..)
  mgmt _ h := k.blocks h rfl rfl rfl rfl rfl rfl
  rule via carrier code ops h := k.rule via carrier code ops h
  quietExpires h := k.tripped _ (k.blocks h rfl rfl rfl rfl rfl rfl)
  metExpires _ h := k.tripped _ (k.blocks h rfl rfl rfl rfl rfl rfl)
  wrap h := k.cycleStart _ (k.blocks h rfl rfl rfl rfl rfl rfl)
  phaseStart _ _ h := k.blocks h rfl rfl rfl rfl rfl rfl
  phaseEnd _ h := k.blocks h rfl rfl rfl rfl rfl rfl
  delayEnd _ h := k.blocks h rfl rfl rfl rfl rfl rfl
  shotEnd _ h := k.blocks h rfl rfl rfl rfl rfl rfl
  capture _ _ h := k.blocks h rfl rfl rfl rfl rfl rfl
  captureEvent _ h := k.blocks h (by simp) (by simp) (by simp) (by simp [State.captureEvent]) (by simp) (by simp)
  scan _ h := k.blocks h rfl rfl rfl rfl rfl rfl
  convert _ _ _ h := k.same h (State.convert_keepsSetup ..)

end

end KeptBySetup

/-! ### The active bank (R51, R58) -/

/-- R51: a bank holds no PUBLISH entry with forward DOWN. -/
def Bank.publishesUp (b : Bank) : Prop :=
  ∀ tag : Tag, ¬(b.entries[tag].role = .publish ∧ b.entries[tag].forward = .down)

theorem banksOk_iff (s : State) : Claims.banksOk s ↔
    Claims.bankSound s.tags.active ∧ s.tags.active.publishesUp ∧ s.tags.shadow.publishesUp := by
  unfold Claims.banksOk Bank.publishesUp
  rw [forall_and]

theorem banksOk_of_reset {t : State} (tags : t.tags = .reset) : Claims.banksOk t := by
  have entry : ∀ tag : Tag, Bank.reset.entries[tag] = TagEntry.reset := fun tag => by simp [Bank.reset]
  have up : Bank.reset.publishesUp := fun tag => by rw [entry]; exact fun h => nomatch h.1
  rw [banksOk_iff, tags]
  exact ⟨fun tag => by
    show Claims.entrySound Bank.reset Bank.reset.entries[tag]
    rw [entry]
    exact nofun, up, up⟩

theorem TagEntry.stored_role (e : TagEntry) : e.stored.role = e.role := by
  unfold TagEntry.stored
  split <;> rfl

/-- R51 and R52: what WRITE_TAG stores is no PUBLISH entry with forward DOWN. -/
theorem TagEntry.stored_publishesUp {e : TagEntry} (h : e.forbidden = false) :
    ¬(e.stored.role = .publish ∧ e.stored.forward = .down) := by
  rintro ⟨role, forward⟩
  rw [TagEntry.stored_role] at role
  simp only [TagEntry.stored, role] at forward
  simp [TagEntry.forbidden, role, forward] at h

theorem Bank.publishesUp.set {b : Bank} (h : b.publishesUp) (tag : Tag) {e : TagEntry}
    (up : ¬(e.role = .publish ∧ e.forward = .down)) :
    Bank.publishesUp { b with entries := b.entries.set tag e } := by
  intro i
  show ¬((b.entries.set tag e)[i].role = .publish ∧ (b.entries.set tag e)[i].forward = .down)
  rw [Vector.read_set]
  split
  · exact up
  · exact h i

theorem ruleWriteTag_banksOk {s : State} (tag role forward expected first count commitAfter filter sync
    buffer : Byte) (h : Claims.banksOk s) :
    Claims.banksOk (ruleWriteTag tag role forward expected first count commitAfter filter sync buffer s).state := by
  refine checked_keeps h ?_
  dsimp only
  split
  case isTrue => exact h
  case isFalse allowed =>
    rw [banksOk_iff] at h ⊢
    obtain ⟨sound, active, shadow⟩ := h
    exact ⟨sound, active, shadow.set _ (TagEntry.stored_publishesUp (Bool.not_eq_true _ ▸ allowed))⟩

/-- R57 and R58: the bank that becomes active has passed the tests. -/
theorem ruleSwapBanks_banksOk {s : State} (h : Claims.banksOk s) : Claims.banksOk (ruleSwapBanks s).state := by
  unfold ruleSwapBanks
  split
  case h_1 => exact h
  case h_2 passed =>
    rw [banksOk_iff] at h ⊢
    obtain ⟨-, active, shadow⟩ := h
    exact ⟨(bankFault_none_iff _).mp passed, shadow, active⟩

theorem banksOk_kept : KeptBySetup Claims.banksOk where
  same h kept := by
    rw [banksOk_iff] at h ⊢
    rw [kept.active, kept.shadow]
    exact h
  rule {s} via carrier code ops h := by
    cases writes : code.writesBanks
    case false =>
      obtain ⟨active, shadow⟩ := (runRule_ruledBy via carrier code ops s).banks writes
      rw [banksOk_iff] at h ⊢
      rw [active, shadow]
      exact h
    case true =>
      cases code with
      | softReset => exact banksOk_of_reset rfl
      | writeTag => exact ruleWriteTag_banksOk _ _ _ _ _ _ _ _ _ _ h
      | swapBanks => exact ruleSwapBanks_banksOk h
      | writeUnpack =>
        refine checked_keeps h ?_
        rw [banksOk_iff] at h ⊢
        exact h
      | copyBank =>
        rw [banksOk_iff] at h ⊢
        obtain ⟨sound, active, -⟩ := h
        exact ⟨sound, active, active⟩
      | _ => cases writes
  reset tags _ _ _ := banksOk_of_reset tags

/-- Settles O58: only WRITE_TAG, WRITE_UNPACK, COPY_BANK, SWAP_BANKS and resets write a bank. -/
theorem stepKeepsTheActiveBankSound : Obligations.StepKeepsTheActiveBankSound :=
  fun _ _ h taken => banksOk_kept.everyPart.step h taken

end Sys2Proof.Machine
end

section
/-!
PROOFS. The settings stay within their ranges (R80, R132, R144, R152, R153).
-/

namespace Sys2Proof.Machine

/-- 9.2: a map that does not hold an item keeps its size when the item changes. -/
theorem mapSize_set_outside {source : Vector SourceItem 32} {m : PubMap} {i : Fin 32} (item : SourceItem)
    (outside : ¬(m.first.val ≤ i.val ∧ i.val < m.first.val + m.count.val)) :
    mapSize (source.set i item) m = mapSize source m := by
  have items : mapItems (source.set i item) m = mapItems source m := by
    unfold mapItems
    refine List.ext_getElem? fun j => ?_
    rw [List.getElem?_take, List.getElem?_take]
    split
    case isFalse => rfl
    case isTrue inMap =>
      rw [List.getElem?_drop, List.getElem?_drop, Vector.getElem?_toList, Vector.getElem?_toList,
        Vector.getElem?_set_ne]
      intro here
      exact outside ⟨by omega, by omega⟩
  unfold mapSize
  rw [items]

/-- R152: an item that no map is too small for leaves every map within 16 bytes. -/
theorem mapSize_of_not_oversized {source : Vector SourceItem 32} {maps : Vector PubMap 8} {i : Fin 32}
    {item : SourceItem} (sound : oversizedMap (source.set i item) maps i = none)
    (before : ∀ b : Buf, mapSize source maps[b] ≤ 16) (b : Buf) : mapSize (source.set i item) maps[b] ≤ 16 := by
  by_cases holds : maps[b].first.val ≤ i.val ∧ i.val < maps[b].first.val + maps[b].count.val
  case neg =>
    rw [mapSize_set_outside item holds]
    exact before b
  case pos =>
    unfold oversizedMap at sound
    have tested := List.findSome?_eq_none_iff.mp sound b (List.mem_finRange b)
    by_contra tooLong
    dsimp only at tested
    rw [if_pos ⟨holds.1, holds.2, not_le.mp tooLong⟩] at tested
    cases tested

/-- R144 and R80: right after a reset the settings are in range. -/
theorem settingsOk_of_reset {t : State} (period : t.cycle.period = 1000)
    (inputs : t.sampler.inputs = Vector.replicate 4 .reset) (publish : t.publish = .reset) :
    Claims.settingsOk t := by
  have window : ∀ a : AnIn, (Vector.replicate 4 Analog.reset)[a] = Analog.reset := fun a => by simp
  have empty : ∀ b : Buf, Publish.reset.maps[b] = { first := 0, count := 0 } := fun b => by simp [Publish.reset]
  refine ⟨by rw [period]; decide, by rw [period]; decide, fun a => ?_, fun b => ?_⟩
  · rw [inputs, window]
    decide
  · rw [publish, empty]
    exact ⟨by decide, by simp [mapSize, mapItems]⟩

theorem settingsOk_congr {s t : State} (h : Claims.settingsOk s) (period : t.cycle.period = s.cycle.period)
    (windows : ∀ a : AnIn, t.sampler.inputs[a].low = s.sampler.inputs[a].low ∧
      t.sampler.inputs[a].high = s.sampler.inputs[a].high)
    (source : t.publish.source = s.publish.source) (maps : t.publish.maps = s.publish.maps) :
    Claims.settingsOk t := by
  obtain ⟨low, high, limits, sizes⟩ := h
  refine ⟨period ▸ low, period ▸ high, fun a => ?_, fun b => ?_⟩
  · rw [(windows a).1, (windows a).2]
    exact limits a
  · rw [source, maps]
    exact sizes b

/-- R84: CONFIG_CYCLE takes a period of 2 to 4096. -/
theorem ruleConfigCycle_settingsOk {s : State} (tick periodHigh periodLow mode : Byte)
    (h : Claims.settingsOk s) : Claims.settingsOk (ruleConfigCycle tick periodHigh periodLow mode s).state := by
  refine checked_keeps_sound h fun sound => ?_
  have inRange := sound (2, _) (by unfold configCycleChecks; exact .tail _ (.head _))
  simp only [Bool.and_eq_true, decide_eq_true_eq] at inRange
  dsimp only
  split
  · exact h
  · obtain ⟨-, -, limits, sizes⟩ := h
    refine ⟨?_, ?_, fun a => ?_, fun b => ?_⟩
    · simpa [State.configCycle] using inRange.1
    · simpa [State.configCycle] using inRange.2
    · have inputs := State.cycleStart_inputs
      unfold State.configCycle
      rw [inputs]
      exact limits a
    · have publish : (s.configCycle ((tickOf tick).getD .us10) (wordOf periodHigh periodLow)
          ((cycleModeOf mode).getD .free)).publish = s.publish := by simp [State.configCycle]
      rw [publish]
      exact sizes b

/-- R144: SET_LIMITS takes limits up to 1023, the low one at most the high one. -/
theorem ruleSetLimits_settingsOk {s : State} (input lowHigh lowLow highHigh highLow trip : Byte)
    (h : Claims.settingsOk s) :
    Claims.settingsOk (ruleSetLimits input lowHigh lowLow highHigh highLow trip s).state := by
  refine checked_keeps_sound h fun sound => ?_
  have ordered := sound (4, _) (by unfold setLimitsChecks; exact .tail _ (.tail _ (.head _)))
  simp only [Bool.and_eq_true, decide_eq_true_eq] at ordered
  obtain ⟨below, order⟩ := ordered
  obtain ⟨low, high, limits, sizes⟩ := h
  refine ⟨low, high, fun a => ?_, sizes⟩
  dsimp only
  rw [Vector.read_set]
  split
  · rw [BitVec.le_def, BitVec.toNat_ofNat, BitVec.toNat_ofNat]
    omega
  · exact limits a

theorem ruleWriteSource_settingsOk {s : State} (index kind selector : Byte) (h : Claims.settingsOk s) :
    Claims.settingsOk (ruleWriteSource index kind selector s).state := by
  refine checked_keeps h ?_
  obtain ⟨low, high, limits, sizes⟩ := h
  dsimp only
  split
  case h_1 => exact ⟨low, high, limits, sizes⟩
  case h_2 sound =>
    exact ⟨low, high, limits, fun b => ⟨(sizes b).1, mapSize_of_not_oversized sound (fun b => (sizes b).2) b⟩⟩

theorem ruleWritePubmap_settingsOk {s : State} (buffer first count : Byte) (h : Claims.settingsOk s) :
    Claims.settingsOk (ruleWritePubmap buffer first count s).state := by
  refine checked_keeps_sound h fun sound => ?_
  have firstOk := sound (2, _) (by unfold writePubmapChecks; exact .tail _ (.head _))
  have countOk := sound (3, _) (by unfold writePubmapChecks; exact .tail _ (.tail _ (.head _)))
  simp only [Bool.and_eq_true, decide_eq_true_eq, below_iff] at firstOk countOk
  obtain ⟨low, high, limits, sizes⟩ := h
  dsimp only
  split
  case isTrue => exact ⟨low, high, limits, sizes⟩
  case isFalse fits =>
    refine ⟨low, high, limits, fun b => ?_⟩
    dsimp only
    rw [Vector.read_set]
    split
    · refine ⟨?_, not_lt.mp fits⟩
      rw [finOf_val firstOk, finOf_val countOk.1]
      exact countOk.2
    · exact sizes b

theorem settingsOk_kept : KeptBySetup Claims.settingsOk where
  same h kept := settingsOk_congr h kept.period kept.windows kept.source kept.maps
  rule {s} via carrier code ops h := by
    cases sets : code.sets
    case false =>
      obtain ⟨period, inputs, source, maps⟩ := (runRule_ruledBy via carrier code ops s).settings sets
      exact settingsOk_congr h period (fun a => by rw [inputs]; exact ⟨rfl, rfl⟩) source maps
    case true =>
      cases code with
      | softReset => exact settingsOk_of_reset rfl rfl rfl
      | configCycle => exact ruleConfigCycle_settingsOk _ _ _ _ h
      | setLimits => exact ruleSetLimits_settingsOk _ _ _ _ _ _ h
      | writeSource => exact ruleWriteSource_settingsOk _ _ _ h
      | writePubmap => exact ruleWritePubmap_settingsOk _ _ _ h
      | _ => cases sets
  reset _ period inputs publish := settingsOk_of_reset period inputs publish

/-- Settles O59: only CONFIG_CYCLE, SET_LIMITS, WRITE_SOURCE, WRITE_PUBMAP and resets write a setting. -/
theorem stepKeepsSettingsInRange : Obligations.StepKeepsSettingsInRange :=
  fun _ _ h taken => settingsOk_kept.everyPart.step h taken

end Sys2Proof.Machine
end

section
/-!
PROOFS. The step, the queue of commands, time and the RESET pin (R40, R164): what every command leaves alone,
what RESET holds, and the values that a reset gives.
-/

namespace Sys2Proof.Machine

/-- Settles O1: both equations are those of the step itself. -/
theorem stepTakesTheFrontCommand : Obligations.StepTakesTheFrontCommand := by
  refine ⟨fun c s => rfl, fun s empty => ?_⟩
  unfold step
  rw [empty]

/-! ### What every command keeps -/

/-- The queue of commands, the clock, the straps and the RESET pin's condition. -/
def State.keepsPlace (s t : State) : Prop :=
  t.pending = s.pending ∧ t.now = s.now ∧ t.straps = s.straps ∧ t.inReset = s.inReset

theorem State.carries.keepsPlace {s t : State} (h : s.carries t) : s.keepsPlace t := by
  obtain ⟨now, -, inReset, straps, pending⟩ := h
  exact ⟨pending, now, straps, inReset⟩

theorem State.seeEdge_keepsPlace (k : CapIn) (l : Level) (s : State) : s.keepsPlace (s.seeEdge k l) := by
  unfold State.seeEdge
  dsimp only
  split
  · simp [State.keepsPlace]
  · exact ⟨rfl, rfl, rfl, rfl⟩

/-- The rows of the check byte and of the blocks behind the ports. -/
theorem State.blockEffect_keepsPlace {c : Instr} (isBlock : isBlockRow c = true)
    (notAssert : ∀ dt, c ≠ .resetAssert dt) (notRelease : ∀ dt straps up down, c ≠ .resetRelease dt straps up down)
    (s : State) : s.keepsPlace (s.effect c) := by
  have whole {t : State} (pending : t.pending = s.pending) (now : t.now = s.now) (straps : t.straps = s.straps)
      (inReset : t.inReset = s.inReset) : s.keepsPlace t := ⟨pending, now, straps, inReset⟩
  cases c with
  | resetAssert dt => exact absurd rfl (notAssert dt)
  | resetRelease dt straps up down => exact absurd rfl (notRelease dt straps up down)
  | checkByte dt b => exact State.carries.keepsPlace (State.takeCheck_carries b (s.setRx .idle))
  | lineQuiet dt =>
    show s.keepsPlace (if s.quietDue then _ else match s.metNow with
      | some limit => _
      | none => _)
    repeat' split
    · simp [State.keepsPlace, State.quietExpires]
    · simp [State.keepsPlace, State.metExpires]
    · exact whole rfl rfl rfl rfl
  | wrap =>
    show s.keepsPlace s.wrap
    simp [State.keepsPlace, State.wrap]
  | widthPhaseStart | widthPhaseEnd | shotDelayEnd | shotEnd | captureOverflow | settlingEnd =>
    exact whole rfl rfl rfl rfl
  | capturePinChange dt k l =>
    show s.keepsPlace (if s.caps[k].pin = l then _ else _)
    split
    · exact whole rfl rfl rfl rfl
    · unfold State.pinChange
      dsimp only
      repeat' split
      · exact whole rfl rfl rfl rfl
      · exact whole rfl rfl rfl rfl
      · exact whole rfl rfl rfl rfl
      · exact State.seeEdge_keepsPlace k l (s.setCap k _)
      · exact whole rfl rfl rfl rfl
  | captureEdge dt k =>
    show s.keepsPlace (s.pendingEdge k)
    unfold State.pendingEdge
    split
    · exact State.seeEdge_keepsPlace k _ s
    · exact whole rfl rfl rfl rfl
  | conversionEnd dt v =>
    show s.keepsPlace (match s.sampler.scan with
        | .converting pos _ => match s.sampler.list[pos.val]? with
          | some a => s.convert pos a v
          | none => s
        | _ => s)
    repeat' split
    · exact whole (by simp) (by simp) (by simp) (by simp)
    · exact whole rfl rfl rfl rfl
    · exact whole rfl rfl rfl rfl
  | _ => cases isBlock

/-- Every command but those of the RESET pin keeps the queue, the clock but for its own time, the straps and
the RESET pin's condition. -/
theorem exec_keepsPlace {c : Instr} {s t : State} (taken : exec c s = .next t)
    (notAssert : ∀ dt, c ≠ .resetAssert dt) (notRelease : ∀ dt straps up down, c ≠ .resetRelease dt straps up down) :
    (s.after c.dt).keepsPlace t := by
  rcases row_kinds c with isPort | ⟨row, isRow⟩ | isBlock
  · rcases exec_next c s t taken with ⟨-, rfl⟩ | ⟨dt, k, l, rfl, -, -⟩ | rfl
    · exact ⟨rfl, rfl, rfl, rfl⟩
    · cases isPort
    · obtain ⟨now, inReset, straps, pending, -⟩ := (s.after c.dt).effect_keepsBlocks c isPort
      exact ⟨pending, now, straps, inReset⟩
  · obtain ⟨code, ops, -, runs⟩ := exec_of_rowOf isRow
    rw [runs s] at taken
    rcases command_next taken with ⟨-, rfl⟩ | ⟨-, -, rfl⟩
    · exact ⟨rfl, rfl, rfl, rfl⟩
    · exact State.carries.keepsPlace (State.commandDone_carries ..)
  · rcases exec_next c s t taken with ⟨-, rfl⟩ | ⟨dt, k, l, rfl, -, rfl⟩ | rfl
    · exact ⟨rfl, rfl, rfl, rfl⟩
    · exact ⟨rfl, rfl, rfl, rfl⟩
    · exact State.blockEffect_keepsPlace isBlock notAssert notRelease _

theorem execResetAssert_eq (dt : Time) (s : State) : exec (.resetAssert dt) s =
    .next (if s.inReset then s.after dt else (s.after dt).heldInReset) := by
  show (if (s.after dt).inReset then _ else _ : Host.Outcome State Fault Refusal) = _
  split
  case isTrue low => rw [if_pos (show s.inReset = true from low)]
  case isFalse high => rw [if_neg (show ¬s.inReset = true from high)]

/-- Settles O2: the rows of the RESET pin, and every other row. -/
theorem everyCommandKeepsQueueTimeAndStraps : Obligations.EveryCommandKeepsQueueTimeAndStraps := by
  intro c s t taken
  by_cases isAssert : ∃ dt, c = .resetAssert dt
  case pos =>
    obtain ⟨dt, rfl⟩ := isAssert
    rw [execResetAssert_eq] at taken
    cases taken
    split <;> exact ⟨rfl, rfl, fun _ => rfl, fun notAssert => absurd rfl (notAssert dt)⟩
  case neg =>
    have notAssert : ∀ dt, c ≠ .resetAssert dt := fun dt is => isAssert ⟨dt, is⟩
    by_cases isRelease : ∃ dt straps up down, c = .resetRelease dt straps up down
    case pos =>
      obtain ⟨dt, straps, up, down, rfl⟩ := isRelease
      cases taken
      exact ⟨rfl, rfl, fun notRelease => absurd rfl (notRelease dt straps up down),
        fun _ notRelease => absurd rfl (notRelease dt straps up down)⟩
    case neg =>
      have notRelease : ∀ dt straps up down, c ≠ .resetRelease dt straps up down :=
        fun dt straps up down is => isRelease ⟨dt, straps, up, down, is⟩
      obtain ⟨pending, now, straps, inReset⟩ := exec_keepsPlace taken notAssert notRelease
      exact ⟨pending, now, fun _ => straps, fun _ _ => inReset⟩

end Sys2Proof.Machine
end

section
/-!
PROOFS. The values that a reset gives, and what RESET low holds (R40, R80, R89, R92, R131, R189; logs 4 and 7).
-/

namespace Sys2Proof.Machine

/-- The blocks that hold their reset values hold those of the manual. -/
theorem blocksReset_of {s t : State} {now : Time} (tags : t.tags = .reset)
    (chans : t.chans = Vector.replicate 6 .reset) (groups : t.groups = Vector.replicate 4 .reset)
    (lastMark : t.lastMark = .reset) (cycle : t.cycle = .resetAt now)
    (caps : t.caps = mapCaps (fun c => .resetAt c.pin) s.caps) (sampler : t.sampler = .reset)
    (publish : t.publish = .reset) : Claims.blocksReset s t now := by
  have replicated {α : Type} {n : Nat} (a : α) (i : Fin n) : (Vector.replicate n a)[i] = a := by simp
  unfold Claims.blocksReset
  rw [tags, chans, groups, lastMark, cycle, caps, sampler, publish]
  refine ⟨fun tag => ⟨replicated _ tag, replicated _ tag⟩, fun i => replicated _ i, rfl, rfl, fun d => ?_,
    fun g => replicated _ g, rfl, rfl, fun k => mapCaps_read _ _ k, rfl, rfl, rfl, rfl, rfl,
    fun a => replicated _ a, fun i => replicated _ i, fun b => ?_⟩
  · rw [replicated]
    exact ⟨rfl, rfl, rfl, rfl, rfl, rfl, rfl, rfl, rfl, rfl⟩
  · have record : Publish.reset.records[b] = PubRecord.reset := replicated _ b
    rw [record]
    exact ⟨replicated _ b, rfl, rfl, rfl, rfl, fun i => replicated _ i⟩

/-- R164: the straps give the station. -/
theorem stationOfStraps_iff (straps : BitVec 4) (n : Fin 15) :
    stationOfStraps straps = some n ↔ straps.toNat = n.val := by
  unfold stationOfStraps
  split
  case isTrue inRange => simp [Fin.ext_iff]
  case isFalse beyond => exact ⟨nofun, fun h => absurd (h ▸ n.isLt) beyond⟩

theorem State.lowAtRelease_eq (low : Bool) (s : State) :
    s.lowAtRelease low = if low then some { since := s.now, tbit := 1250 } else none := by
  unfold State.lowAtRelease
  cases low <;> rfl

/-- Settles O3: the part that RESET_RELEASE makes, block by block. -/
theorem resetReleaseGivesTheResetValues : Obligations.ResetReleaseGivesTheResetValues := by
  intro dt straps upLow downLow s
  have rx : ((s.after dt).released straps upLow downLow).up.rx =
      if upLow then .lowSeen { since := s.now + dt, tbit := 1250 } else .idle := by
    show (match (s.after dt).lowAtRelease upLow with
      | some low => Rx.lowSeen low
      | none => Rx.idle) = _
    rw [State.lowAtRelease_eq]
    cases upLow <;> rfl
  exact ⟨_, rfl, rfl, rfl, rfl, rfl, rx, rfl, rfl, rfl, rfl, rfl, rfl, rfl, rfl, rfl, rfl, rfl, rfl, rfl, rfl,
    rfl, rfl, rfl, State.lowAtRelease_eq downLow (s.after dt), rfl,
    blocksReset_of rfl rfl rfl rfl rfl rfl rfl rfl, stationOfStraps_iff straps, rfl, rfl, rfl, rfl, rfl, rfl⟩

/-! ### RESET low -/

/-- R80: nothing is counted while RESET is low. -/
theorem State.count_of_low {s : State} (low : s.inReset = true) : s.count = 0 := by
  unfold State.count
  rw [low]
  rfl

theorem resetAssertReleasesEveryDriver : Claims.ResetAssertReleasesEveryDriver := by
  intro dt s high
  have taken : exec (.resetAssert dt) s = .next (s.after dt).heldInReset := by
    rw [execResetAssert_eq, high]
    rfl
  refine ⟨_, taken, rfl, rfl, rfl, rfl, fun d => rfl, rfl, rfl, rfl, State.count_of_low rfl,
    fun _ => State.count_of_low rfl, fun d => ?_, rfl, rfl, rfl, rfl, rfl, rfl, rfl, rfl, rfl, rfl⟩
  exact mapChans_read _ _ d

theorem onlyTimePassesWhileResetIsLow : Claims.OnlyTimePassesWhileResetIsLow := by
  refine ⟨fun c s low notRelease notPin => ?_, fun dt k l s low => if_pos low⟩
  cases c with
  | resetAssert dt => exact if_pos low
  | resetRelease dt straps up down => exact absurd rfl (notRelease dt straps up down)
  | capturePinChange dt k l => exact absurd rfl (notPin dt k l)
  | _ => exact if_pos low

/-- Settles O4. -/
theorem resetLowHoldsThePart : Obligations.ResetLowHoldsThePart :=
  ⟨resetAssertReleasesEveryDriver, onlyTimePassesWhileResetIsLow⟩

/-- Settles O60: the reset state meets what a reset gives to each invariant. -/
theorem resetStateMeetsEveryInvariant : Obligations.ResetStateMeetsEveryInvariant :=
  ⟨eventsOk_of_reset rfl, Nat.zero_le _, channelsOk_kept.reset rfl rfl, followersOk_kept.reset rfl rfl,
    banksOk_of_reset rfl, settingsOk_of_reset rfl rfl rfl⟩

end Sys2Proof.Machine
end

section
/-!
PROOFS. What every management row shares (R165 to R170): the state in which a command is executed, in the terms
of the statements, and one equation for an own command, for a broadcast, a repeat and a refusal.
-/

namespace Sys2Proof.Machine

/-! ### A frame's pass -/

/-- With RESET high a command reaches the part once its time has passed. -/
theorem live_high {dt : Time} {s : State} {f : State → Out} (high : s.inReset = false) :
    live dt s f = f (s.after dt) := by
  unfold live
  rw [high]
  rfl

/-- R20 and R37: the pass of a frame. -/
theorem State.pass_after (dt : Time) (s : State) : (s.after dt).pass = Claims.passed dt s := rfl

/-- R166: the state in which a command with a new sequence is executed. -/
theorem State.taken_eq (dt : Time) (seq : Seq) (s : State) : s.taken dt seq = Claims.taken dt seq s := by
  unfold State.taken Claims.taken
  rw [State.pass_after]
  dsimp only
  have mgmt : (Claims.passed dt s).mgmt = s.mgmt := State.pass_mgmt_eq (s.after dt)
  rw [mgmt]

/-- What a pass and a sequence leave as they are. -/
theorem Claims.taken_eq (dt : Time) (seq : Seq) (s : State) : Claims.taken dt seq s =
    { s with
      now := s.now + dt, up := (Claims.counted dt s).up, mgmt := { s.mgmt with lastSeq := some seq },
      events := (Claims.taken dt seq s).events } := by
  unfold Claims.taken Claims.passed
  rw [State.postAll_events]
  rfl

theorem lineFree_iff (s : State) : Claims.lineFree s ↔ s.inReset = false ∧ s.lineFree = true := by
  unfold Claims.lineFree State.lineFree
  rw [Bool.and_eq_true, decide_eq_true_eq, decide_eq_true_eq]

section
variable {dt : Time} {q : Seq} {n : Fin 15} {s : State} {code : CmdCode} {ops : List Byte}

/-- R166, R168 and R170: an own command that is executed, with its reply. -/
theorem command_own_ruling (h : Claims.takesOwn n q s) {r : Ruling}
    (ruled : runOwn none (cmdByte code :: ops) (Claims.taken dt q s) = r) :
    command dt .own q code ops s = .next (Claims.replied (cmdByte code) q r.result r.data r.state) := by
  obtain ⟨free, station, fresh⟩ := h
  obtain ⟨high, line⟩ := (lineFree_iff s).mp free
  have assigned : s.assigned = true := by
    unfold State.assigned
    rw [station]
    rfl
  rw [command_own code ops high line assigned fresh, State.taken_eq, ruled]
  rfl

/-- R168, step 3: an own command of the right length runs its rule. -/
theorem command_own_rule (h : Claims.takesOwn n q s) (length : lengthFault code ops = none) {r : Ruling}
    (ruled : runRule .own none code ops (Claims.taken dt q s) = r) :
    command dt .own q code ops s = .next (Claims.replied (cmdByte code) q r.result r.data r.state) :=
  command_own_ruling h ((runOwn_eq none code ops _ length).trans ruled)

/-- R169: a broadcast of one of the five commands runs its rule. -/
theorem command_broadcast_rule (h : Claims.takesBroadcast q s) (five : cmdByBroadcast code = true)
    (length : lengthFault code ops = none) : command dt .broadcast q code ops s =
      .next (runRule .broadcast none code ops (Claims.taken dt q s)).state := by
  obtain ⟨free, fresh⟩ := h
  obtain ⟨high, line⟩ := (lineFree_iff s).mp free
  rw [command_broadcast code ops high line fresh five length, State.taken_eq]

/-- R166: a repeat only passes and counts. -/
theorem command_repeat {via : Via} (free : Claims.lineFree s) (same : s.mgmt.lastSeq = some q)
    (assigned : via = .own → s.mgmt.station ≠ none) :
    command dt via q code ops s = .next (Claims.passed dt s).countRepeat := by
  obtain ⟨high, line⟩ := (lineFree_iff s).mp free
  rw [command_run high line]
  unfold State.commandDone State.takeCommand
  rw [if_neg (fun own => own.2 (Option.isSome_iff_ne_none.mpr (assigned own.1))), State.pass_mgmt_eq,
    if_pos (show (s.after dt).mgmt.lastSeq = some q from same), State.pass_after]

/-- R169: a broadcast that this bridge does not execute is counted. -/
theorem command_reject (h : Claims.takesBroadcast q s) (other : broadcastCode (cmdByte code :: ops) = none) :
    command dt .broadcast q code ops s = .next
      { Claims.taken dt q s with mgmt := { (Claims.taken dt q s).mgmt with
          rejects := satInc (Claims.taken dt q s).mgmt.rejects } } := by
  obtain ⟨free, fresh⟩ := h
  obtain ⟨high, line⟩ := (lineFree_iff s).mp free
  rw [command_run high line, ← State.taken_eq]
  unfold State.commandDone State.takeCommand
  rw [if_neg (by simp), State.pass_mgmt_eq, if_neg (show (s.after dt).mgmt.lastSeq ≠ some q from fresh)]
  dsimp only
  unfold State.broadcastCommand
  rw [other]
  rfl

/-- R165: a frame to the bridge's own station cannot meet an unassigned bridge; it only passes. -/
theorem command_unassigned (free : Claims.lineFree s) (none : s.mgmt.station = none) :
    command dt .own q code ops s = .next (Claims.passed dt s) := by
  obtain ⟨high, line⟩ := (lineFree_iff s).mp free
  have unassigned : ¬(s.after dt).assigned = true := by
    unfold State.assigned
    rw [show (s.after dt).mgmt.station = Option.none from none]
    nofun
  rw [command_run high line]
  unfold State.commandDone
  rw [if_pos ⟨rfl, unassigned⟩, State.pass_after]

/-- Logs 3 and 8: a management row has no place on a busy line. -/
theorem command_busy {via : Via} (high : s.inReset = false) (busy : s.fc.state ≠ .done ∨ s.up.rx ≠ .idle) :
    command dt via q code ops s = .refused .outOfPlace := by
  have line : ¬(s.after dt).lineFree = true := by
    unfold State.lineFree
    rw [Bool.and_eq_true, decide_eq_true_eq, decide_eq_true_eq]
    exact fun ⟨done, idle⟩ => busy.elim (fun h => h done) (fun h => h idle)
  unfold command
  rw [live_high high]
  exact if_neg line

end

/-- Settles O39. -/
theorem commandRowsNeedAFreeLine : Obligations.CommandRowsNeedAFreeLine := by
  intro c row s isRow high busy
  obtain ⟨code, ops, -, runs⟩ := exec_of_rowOf isRow
  rw [runs]
  exact command_busy high busy

/-! ### Repeats and rejected broadcasts -/

theorem repeatedCommandExecutesNothing : Claims.RepeatedCommandExecutesNothing := by
  intro c row s isRow free same assigned
  obtain ⟨code, ops, -, runs⟩ := exec_of_rowOf isRow
  rw [runs, command_repeat free same assigned]
  rfl

/-- R169: the five commands that come by broadcast. -/
theorem cmdByBroadcast_iff (code : CmdCode) : cmdByBroadcast code = true ↔
    code ∈ [CmdCode.commit, .groupStop, .softReset, .ping, .assignStation] := by
  cases code <;> decide

theorem cmdByte_notFive {code : CmdCode}
    (h : some (cmdByte code) ∉ [some (0x26 : Byte), some 0x24, some 0x08, some 0x01, some 0x06]) :
    cmdByBroadcast code = false := by
  cases code with
  | commit | groupStop | softReset | ping | assignStation => exact absurd (by decide) h
  | _ => rfl

theorem broadcastCode_of_notFive {code : CmdCode} (ops : List Byte) (h : cmdByBroadcast code = false) :
    broadcastCode (cmdByte code :: ops) = none := by
  unfold broadcastCode
  simp only [cmdOf_cmdByte, h]
  rfl

theorem broadcastOutsideTheFiveIsRejected : Claims.BroadcastOutsideTheFiveIsRejected := by
  intro c row s isRow free
  obtain ⟨code, ops, bytes, runs⟩ := exec_of_rowOf isRow
  refine ⟨fun via fresh other => ?_, fun via none => ?_⟩
  · rw [bytes] at other
    rw [runs, via]
    exact command_reject ⟨free, fresh⟩ (broadcastCode_of_notFive ops (cmdByte_notFive other))
  · rw [runs, via]
    exact command_unassigned free none

/-- 12.5: a byte that is no command's code is not read as one. -/
theorem cmdOf_none {b : Byte} (h : ∀ c : CmdCode, cmdByte c ≠ b) : cmdOf b = none :=
  List.find?_eq_none.mpr fun c _ => by simpa using h c

theorem broadcastCode_of_wrongLength {code : CmdCode} {ops : List Byte} (h : ops.length ≠ cmdLength code) :
    broadcastCode (cmdByte code :: ops) = none := by
  cases five : cmdByBroadcast code
  case false => exact broadcastCode_of_notFive ops five
  case true =>
    unfold broadcastCode
    simp only [cmdOf_cmdByte, five]
    have fault : lengthFault code ops = some (cmdLength code) := by
      cases code with
      | writeUnpack => cases five
      | _ => exact if_neg h
    rw [fault]
    rfl

theorem undecodableBroadcastIsRejected : Claims.UndecodableBroadcastIsRejected := by
  intro carrier seq data s fresh undecodable
  have rejected : broadcastCode data = none := by
    rcases undecodable with rfl | ⟨b, ops, rfl, unknown⟩ | ⟨c, ops, rfl, other | length⟩
    · rfl
    · unfold broadcastCode
      simp only [cmdOf_none unknown]
    · exact broadcastCode_of_notFive ops (Bool.not_eq_true _ ▸ mt (cmdByBroadcast_iff c).mp other)
    · exact broadcastCode_of_wrongLength length
  unfold State.takeCommand
  rw [if_neg fresh]
  dsimp only
  unfold State.broadcastCommand
  rw [rejected]

/-- Settles O38. -/
theorem repeatsAndRejectsExecuteNothing : Obligations.RepeatsAndRejectsExecuteNothing :=
  ⟨repeatedCommandExecutesNothing, broadcastOutsideTheFiveIsRejected, undecodableBroadcastIsRejected⟩

end Sys2Proof.Machine
end

section
/-!
PROOFS. Refusals (R168, R191): a first operand out of range, and what a refused command leaves.
-/

namespace Sys2Proof.Machine

theorem checked_first {sound : Bool} {rest : List Check} {s : State} {act : Ruling} (faulty : sound = false) :
    checked ((1, sound) :: rest) s act = answer .badOperand [1] s := by
  refine checked_faulty ?_
  unfold firstFault
  rw [faulty]
  rfl

theorem below_faulty {n : Nat} {b : Byte} (h : n ≤ b.toNat) : below n b = false :=
  decide_eq_false (not_lt.mpr h)

section
variable {dt : Time} {q : Seq} {n : Fin 15} {s : State}

/-- R191: an own command whose first operand is out of range names its position. -/
theorem command_own_faulty {code : CmdCode} {ops : List Byte} {sound : Bool} {rest : List Check} {act : Ruling}
    (h : Claims.takesOwn n q s) (length : lengthFault code ops = none) (faulty : sound = false)
    (rule : runRule .own none code ops (Claims.taken dt q s) =
      checked ((1, sound) :: rest) (Claims.taken dt q s) act) :
    command dt .own q code ops s =
      .next (Claims.replied (cmdByte code) q .badOperand [1] (Claims.taken dt q s)) :=
  command_own_rule h length (rule.trans (checked_first faulty))

end

section
variable {b : Byte}

theorem rateOf_faulty (h : 3 ≤ b.toNat) : (rateOf b).isSome = false := by
  obtain ⟨m, e⟩ := Nat.exists_eq_add_of_le' h
  unfold rateOf
  rw [e]
  rfl

theorem bankIsShadow_faulty (h : 2 ≤ b.toNat) : (bankIsShadow b).isSome = false := by
  obtain ⟨m, e⟩ := Nat.exists_eq_add_of_le' h
  unfold bankIsShadow
  rw [e]
  rfl

theorem tickOf_faulty (h : 4 ≤ b.toNat) : (tickOf b).isSome = false := by
  obtain ⟨m, e⟩ := Nat.exists_eq_add_of_le' h
  unfold tickOf
  rw [e]
  rfl

theorem samplerModeOf_faulty (h : 3 ≤ b.toNat) : (samplerModeOf b).isSome = false := by
  obtain ⟨m, e⟩ := Nat.exists_eq_add_of_le' h
  unfold samplerModeOf
  rw [e]
  rfl

theorem maskOk_faulty (h : 16 ≤ b.toNat) : maskOk b = false := by
  refine decide_eq_false fun zero => ?_
  have high := congrArg BitVec.toNat zero
  have small := b.isLt
  simp only [BitVec.extractLsb'_toNat, Nat.shiftRight_eq_div_pow, show (0 : BitVec 4).toNat = 0 from rfl] at high
  omega

end

/-- R168: a WRITE_UNPACK whose descriptors fit its number has no wrong length. -/
theorem writeUnpack_length {first number : Byte} {ds : List Byte}
    (h : 1 ≤ number.toNat → number.toNat ≤ 6 → ds.length = 2 * number.toNat) :
    lengthFault .writeUnpack (first :: number :: ds) = none := by
  unfold lengthFault
  dsimp only
  rw [if_neg (by simp), if_neg]
  rintro ⟨low, high, wrong⟩
  have given : 1 ≤ number.toNat := low
  have few : number.toNat ≤ 6 := high
  refine wrong ?_
  rw [List.length_cons, List.length_cons, h given few]
  show 2 * number.toNat + 1 + 1 = 2 + 2 * number.toNat
  omega

/-- Settles O55. -/
theorem faultyFirstOperandIsNamed : Obligations.FaultyFirstOperandIsNamed := by
  intro dt q n b a c d e f g h i j s takes
  refine ⟨fun big => ?_, fun big => ?_, fun big => ?_, fun big => ?_, fun big ds fits => ?_, fun big => ?_,
    fun big => ?_, fun big => ?_, fun big => ?_, fun big => ⟨?_, ?_, ?_, ?_⟩, fun big => ?_,
    fun big => ⟨?_, ?_⟩, fun big => ?_, fun big => ?_, fun big => ?_, fun big => ?_, fun big => ?_, fun big => ?_, ?_⟩
  · exact command_own_faulty (code := .setLine) takes rfl (rateOf_faulty big) rfl
  · exact command_own_faulty (code := .readCounts) takes rfl (below_faulty big) rfl
  · exact command_own_faulty (code := .writeTag) takes rfl (below_faulty big) rfl
  · exact command_own_faulty (code := .readTag) takes rfl (bankIsShadow_faulty big) rfl
  · exact command_own_faulty (code := .writeUnpack) takes (writeUnpack_length fits) (below_faulty big) rfl
  · exact command_own_faulty (code := .readUnpack) takes rfl (bankIsShadow_faulty big) rfl
  · exact command_own_faulty (code := .configCycle) takes rfl (tickOf_faulty big) rfl
  · exact command_own_faulty (code := .configChannel) takes rfl (below_faulty big) rfl
  · exact command_own_faulty (code := .configGroup) takes rfl (below_faulty big) rfl
  · exact command_own_faulty (code := .groupStart) takes rfl (maskOk_faulty big) rfl
  · exact command_own_faulty (code := .groupStop) takes rfl (maskOk_faulty big) rfl
  · exact command_own_faulty (code := .groupResume) takes rfl (maskOk_faulty big) rfl
  · exact command_own_faulty (code := .commit) takes rfl (maskOk_faulty big) rfl
  · exact command_own_faulty (code := .readChannel) takes rfl (below_faulty big) rfl
  · exact command_own_faulty (code := .configCapture) takes rfl (below_faulty big) rfl
  · exact command_own_faulty (code := .readCapture) takes rfl (below_faulty big) rfl
  · exact command_own_faulty (code := .configSampler) takes rfl (samplerModeOf_faulty big) rfl
  · exact command_own_faulty (code := .setLimits) takes rfl (below_faulty big) rfl
  · exact command_own_faulty (code := .readSamples) takes rfl (below_faulty big) rfl
  · exact command_own_faulty (code := .writeSource) takes rfl (below_faulty big) rfl
  · exact command_own_faulty (code := .writePubmap) takes rfl (below_faulty big) rfl
  · exact command_own_faulty (code := .readPublish) takes rfl (below_faulty big) rfl
  · exact command_broadcast_rule (code := .ping) ⟨takes.1, takes.2.2⟩ rfl rfl

/-! ### What a refused command leaves -/

/-- A refusal changes nothing. -/
def Ruling.honest (refused : CmdResult → Prop) (s : State) (r : Ruling) : Prop := refused r.result → r.state = s

theorem checked_honest {refused : CmdResult → Prop} {checks : List Check} {s : State} {act : Ruling}
    (h : act.honest refused s) : (checked checks s act).honest refused s := by
  cases fault : firstFault checks with
  | none => rw [checked_sound fault]; exact h
  | some pos => rw [checked_faulty fault]; exact fun _ => rfl

/-- The results that refuse a command before its rule acts (R168, R185, R191). -/
abbrev CmdResult.early (r : CmdResult) : Prop := r ∈ [CmdResult.badOperand, .badLength, .notFound]

/-- The commands that act whatever their result: the mask commands and SAMPLE_NOW (R104, R145). -/
def CmdCode.actsAnyway : CmdCode → Bool
  | .groupStart | .groupResume | .commit | .sampleNow => true
  | _ => false

/-- R168 and R191: the rule of a command that is refused changes nothing. -/
theorem runRule_honest (carrier : Option Nat) (code : CmdCode) (ops : List Byte) (s : State)
    (plain : code.actsAnyway = false) :
    (runRule .own carrier code ops s).honest (fun r => r ≠ .ok) s := by
  cases code with
  | groupStart | groupResume | commit | sampleNow => cases plain
  | ping | readStatus | clearCounts | unassign | softReset | copyBank | eventRead =>
    exact fun refused => absurd rfl refused
  | setLine | writeUnpack | readTag | readUnpack | groupStop | configCapture | readCapture | configSampler
    | setLimits => exact checked_honest fun refused => absurd rfl refused
  | assignStation => exact fun _ => rfl
  | readCounts | readSamples =>
    refine checked_honest ?_
    repeat' split
    all_goals exact fun _ => rfl
  | writeTag | configCycle | configGroup | writeSource | writePubmap =>
    refine checked_honest ?_
    dsimp only
    split
    · exact fun _ => rfl
    · exact fun refused => absurd rfl refused
  | swapBanks =>
    show (ruleSwapBanks s).honest _ s
    unfold ruleSwapBanks
    split
    · exact fun _ => rfl
    · exact fun refused => absurd rfl refused
  | configChannel =>
    refine checked_honest ?_
    dsimp only
    repeat' split
    · exact fun _ => rfl
    · exact fun _ => rfl
    · exact fun refused => absurd rfl refused
  | readChannel =>
    refine checked_honest ?_
    dsimp only
    split
    · exact fun _ => rfl
    · exact fun refused => absurd rfl refused
  | readPublish =>
    refine checked_honest ?_
    unfold rulePublishSource
    dsimp only
    repeat' split
    all_goals exact fun refused => absurd rfl refused
  | eventAck =>
    show (ruleEventAck _ s).honest _ s
    unfold ruleEventAck
    dsimp only
    split
    · exact fun refused => absurd rfl refused
    · exact fun _ => rfl

/-- R104 and R145: no rule refuses with an early result once it acts. -/
theorem runRule_early (carrier : Option Nat) (code : CmdCode) (ops : List Byte) (s : State) :
    (runRule .own carrier code ops s).honest CmdResult.early s := by
  have late {r : Ruling} (notEarly : ¬r.result.early) : r.honest CmdResult.early s :=
    fun early => absurd early notEarly
  cases plain : code.actsAnyway
  case false =>
    refine fun early => runRule_honest carrier code ops s plain fun ok => ?_
    rw [ok] at early
    revert early
    decide
  case true =>
    cases code with
    | groupStart =>
      refine checked_honest (late ?_)
      dsimp only
      repeat' split
      all_goals decide
    | groupResume =>
      refine checked_honest (late ?_)
      dsimp only
      split <;> decide
    | commit =>
      refine checked_honest (late ?_)
      dsimp only
      split <;> decide
    | sampleNow =>
      refine late ?_
      show ¬CmdResult.early (if s.sampler.scan.startsOnTrigger then CmdResult.ok else .state)
      split <;> decide
    | _ => cases plain

/-- R168: a command of a wrong length is refused before its rule. -/
theorem runOwn_wrongLength {carrier : Option Nat} {code : CmdCode} {ops : List Byte} {s : State} {expected : Nat}
    (fault : lengthFault code ops = some expected) : runOwn carrier (cmdByte code :: ops) s =
      answer .badLength [byteOf ops.length, byteOf expected] s := by
  unfold runOwn
  simp only [cmdOf_cmdByte, fault]

/-- A refusal before any rule acts, or by the rule of a command that acts only where it answers OK. -/
theorem runOwn_refused {carrier : Option Nat} {code : CmdCode} {ops : List Byte} {s : State}
    (refused : (runOwn carrier (cmdByte code :: ops) s).result.early ∨
      ((runOwn carrier (cmdByte code :: ops) s).result ≠ .ok ∧ code.actsAnyway = false)) :
    (runOwn carrier (cmdByte code :: ops) s).state = s := by
  cases fault : lengthFault code ops with
  | some expected => rw [runOwn_wrongLength fault]; rfl
  | none =>
    rw [runOwn_eq _ _ _ _ fault] at refused ⊢
    rcases refused with early | ⟨notOk, plain⟩
    · exact runRule_early carrier code ops s early
    · exact runRule_honest carrier code ops s plain notOk

/-- 12.5: no two commands share a code. -/
theorem cmdByte_injective : Function.Injective cmdByte := fun c d same =>
  Option.some.inj ((cmdOf_cmdByte c).symm.trans (same ▸ cmdOf_cmdByte d))

theorem actsAnyway_false {code : CmdCode}
    (h : some (cmdByte code) ∉ [some (0x23 : Byte), some 0x25, some 0x26, some 0x34]) :
    code.actsAnyway = false := by
  cases code with
  | groupStart | groupResume | commit | sampleNow => exact absurd (by decide) h
  | _ => rfl

/-- R145: a SAMPLE_NOW that is refused has met a scan that is on, which counts it, or a sampler that is off. -/
theorem sampleNow_refused {s : State} (refused : (ruleSampleNow s).result = .state) :
    (ruleSampleNow s).state = if s.sampler.scan = .off then s else
      { s with sampler := { s.sampler with overrun := satInc s.sampler.overrun } } := by
  unfold ruleSampleNow at refused ⊢
  dsimp only at refused ⊢
  unfold Sampler.trigger
  cases scan : s.sampler.scan with
  | off => rw [if_pos rfl]
  | ready | asleep => rw [scan] at refused; cases refused
  | settling | converting => rw [if_neg nofun]

theorem refusedCommandOnlyPassesAndReplies : Claims.RefusedCommandOnlyPassesAndReplies := by
  intro c row station s t isRow own takes taken
  obtain ⟨code, ops, bytes, runs⟩ := exec_of_rowOf isRow
  rw [runs, own, command_own_ruling takes rfl] at taken
  cases taken
  intro p sampler
  rw [bytes]
  refine ⟨fun refused => ?_, fun isSample refused => ?_⟩
  · have state : (runOwn none (cmdByte code :: ops) p).state = p := by
      refine runOwn_refused ?_
      rcases refused with early | ⟨late, other⟩
      · exact .inl (by simpa [Claims.replied, CmdResult.early] using early)
      · refine .inr ⟨fun ok => ?_, actsAnyway_false other⟩
        revert late
        show some (runOwn none (cmdByte code :: ops) p).result ∉ _
        rw [ok]
        decide
    show Claims.replied (cmdByte code) row.seq (runOwn none (cmdByte code :: ops) p).result _ _ = _
    rw [state]
    rfl
  · have isNow : code = .sampleNow := cmdByte_injective (Option.some.inj isSample)
    subst isNow
    have result : (runOwn none (cmdByte .sampleNow :: ops) p).result = .state := Option.some.inj refused
    have length : lengthFault .sampleNow ops = none := by
      cases fault : lengthFault .sampleNow ops with
      | none => rfl
      | some expected => rw [runOwn_wrongLength fault] at result; cases result
    show Claims.replied 0x34 row.seq (runOwn none (cmdByte .sampleNow :: ops) p).result _ _ = _
    have ruled := sampleNow_refused (s := p) (by rw [runOwn_eq _ _ _ _ length] at result; exact result)
    rw [result, show (runOwn none (cmdByte .sampleNow :: ops) p).state = _ from
      (congrArg Ruling.state (runOwn_eq _ _ _ _ length)).trans ruled]
    have sameSampler : p.sampler = s.sampler := by
      show (Claims.taken c.dt row.seq s).sampler = s.sampler
      rw [Claims.taken_eq]
    rw [sameSampler]
    rfl

/-- R168 and R170: an own command with a new sequence. -/
theorem State.takeCommand_own {carrier : Option Nat} {seq : Seq} {data : List Byte} {s : State}
    (fresh : s.mgmt.lastSeq ≠ some seq) {r : Ruling}
    (ruled : runOwn carrier data { s with mgmt := { s.mgmt with lastSeq := some seq } } = r) :
    s.takeCommand .own carrier seq data =
      { r.state with mgmt := { r.state.mgmt with reply := replyOf seq data r } } := by
  unfold State.takeCommand
  rw [if_neg fresh]
  dsimp only
  unfold State.ownCommand
  rw [ruled]

theorem undecodableCommandIsRefused : Claims.UndecodableCommandIsRefused := by
  intro carrier seq s fresh replies
  have wrongLength {code : CmdCode} {ops : List Byte} {expected : Nat}
      (fault : lengthFault code ops = some expected) :
      s.takeCommand .own carrier seq (cmdByte code :: ops) = replies (some (cmdByte code)) .badLength
        [BitVec.ofNat 8 ops.length, BitVec.ofNat 8 expected] :=
    State.takeCommand_own fresh (runOwn_wrongLength fault)
  refine ⟨State.takeCommand_own fresh rfl, fun b ops unknown => ?_,
    fun c ops notUnpack length => wrongLength ?_, fun ops short => wrongLength (code := .writeUnpack) (if_pos short),
    fun first number ds low high length => ?_⟩
  · refine State.takeCommand_own (r := answer .badCode [] { s with mgmt := { s.mgmt with lastSeq := some seq } }) fresh ?_
    unfold runOwn
    simp only [cmdOf_none unknown]
  · cases c with
    | writeUnpack => exact absurd rfl notUnpack
    | _ => exact if_neg length
  · refine wrongLength (code := .writeUnpack) (ops := first :: number :: ds) ?_
    unfold lengthFault
    dsimp only
    rw [if_neg (by simp)]
    exact if_pos ⟨low, high, fun same => length (by
      simp only [List.length_cons] at same
      have same' : ds.length + 1 + 1 = 2 + 2 * number.toNat := same
      omega)⟩

/-- Settles O40. -/
theorem refusedCommandsOnlyPassAndReply : Obligations.RefusedCommandsOnlyPassAndReply :=
  ⟨refusedCommandOnlyPassesAndReplies, undecodableCommandIsRefused⟩

end Sys2Proof.Machine
end

section
/-!
PROOFS. The line, station, status and event commands (R174 to R178, R184 to R188).
-/

namespace Sys2Proof.Machine

section
variable (dt : Time) (q : Seq) (s : State)

/-- What the pass of a command's frame leaves as it was. -/
@[simp] theorem taken_frame :
    (Claims.taken dt q s).now = s.now + dt ∧ (Claims.taken dt q s).draws = s.draws ∧
    (Claims.taken dt q s).fc = s.fc ∧ (Claims.taken dt q s).relay = s.relay ∧
    (Claims.taken dt q s).down = s.down ∧ (Claims.taken dt q s).tags = s.tags ∧
    (Claims.taken dt q s).chans = s.chans ∧ (Claims.taken dt q s).groups = s.groups ∧
    (Claims.taken dt q s).lastMark = s.lastMark ∧ (Claims.taken dt q s).cycle = s.cycle ∧
    (Claims.taken dt q s).caps = s.caps ∧ (Claims.taken dt q s).sampler = s.sampler ∧
    (Claims.taken dt q s).publish = s.publish := by
  rw [Claims.taken_eq]
  exact ⟨rfl, rfl, rfl, rfl, rfl, rfl, rfl, rfl, rfl, rfl, rfl, rfl, rfl⟩

@[simp] theorem taken_up : (Claims.taken dt q s).up = (Claims.counted dt s).up := by rw [Claims.taken_eq]

@[simp] theorem taken_mgmt : (Claims.taken dt q s).mgmt = { s.mgmt with lastSeq := some q } := by
  rw [Claims.taken_eq]

end

section
variable {dt : Time} {q : Seq} {n : Fin 15} {s : State} {code : CmdCode} {ops : List Byte}

/-- An own command whose rule gives a ruling, with the reply data in the statement's words. -/
theorem command_own_reply (h : Claims.takesOwn n q s) (length : lengthFault code ops = none) {r : Ruling}
    {data : List Byte} (ruled : runRule .own none code ops (Claims.taken dt q s) = r) (reads : r.data = data) :
    command dt .own q code ops s = .next (Claims.replied (cmdByte code) q r.result data r.state) := by
  rw [command_own_rule h length ruled, reads]

end

/-! ### Status reads -/

theorem groupByte_eq (r : GroupRec) : groupByte r = BitVec.ofNat 8
    ((match r.state with
      | .stopped => 0
      | .run => 1
      | .fallback => 2
      | .resuming => 3) +
     4 * (match r.reason with
      | none => 0
      | some .hold => 1
      | some .quiet => 2
      | some .limit => 3) + (if r.endPending then 16 else 0)) := by
  unfold groupByte
  generalize r.state = state, r.reason = reason, r.endPending = pending
  rcases reason with _ | _ | _ | _ <;> cases state <;> cases pending <;> rfl

theorem takesOwn_station {n : Fin 15} {q : Seq} {s : State} (h : Claims.takesOwn n q s) :
    s.mgmt.station = some n := h.2.1

/-- Settles O41. -/
theorem statusReadsReplyWithTheItems : Obligations.StatusReadsReplyWithTheItems := by
  intro dt q n s takes p group up down shown
  have station := takesOwn_station takes
  have mgmt : p.mgmt = { s.mgmt with lastSeq := some q } := taken_mgmt dt q s
  have groups : p.groups = s.groups := by simp [p]
  have tags : p.tags = s.tags := by simp [p]
  have sampler : p.sampler = s.sampler := by simp [p]
  have quiet : p.up.quiet = if s.mgmt.quietLimit = 0 then .off else .running := by
    rw [show p.up = (Claims.counted dt s).up from taken_up dt q s]
    rfl
  refine ⟨command_own_reply (code := .ping) takes rfl rfl ?_,
    command_own_reply (code := .readStatus) takes rfl rfl ?_,
    command_own_reply (code := .readCounts) takes rfl rfl ?_,
    command_own_reply (code := .readCounts) takes rfl rfl ?_,
    command_own_reply (code := .eventRead) takes rfl rfl ?_⟩
  · show (rulePing p).data = _
    simp only [rulePing, answer, mgmt, station]
    rfl
  · show (ruleReadStatus p).data = _
    have quietByte : quietStateCode p.up.quiet = if s.mgmt.quietLimit = 0 then 0 else 1 := by
      rw [quiet]
      split <;> rfl
    simp only [ruleReadStatus, answer, mgmt, groups, tags, sampler, State.assigned, station, groupByte_eq, quietByte]
    rfl
  · show up.framesOk :: _ = _
    rw [show p.mgmt.rejects = s.mgmt.rejects by rw [mgmt]]
    rfl
  · rfl
  · show (ruleEventRead p).data = _
    simp only [ruleEventRead, answer, List.flatMap_def]
    rfl

/-! ### Line settings, counters and acknowledgements -/

theorem rateOf_rateCode (rate : Rate) : rateOf (rateCode rate) = some rate := by cases rate <;> rfl

/-- R185: the first entry with a stamp is found behind the older ones. -/
theorem findIdx_stamp {older newer : List Event} {e : Event} (other : ∀ x ∈ older, x.stamp ≠ e.stamp) :
    (older ++ e :: newer).findIdx? (fun x => x.stamp == e.stamp) = some older.length := by
  rw [List.findIdx?_append, List.findIdx?_eq_none_iff.mpr fun x member => by simpa using other x member]
  simp [List.findIdx?_cons]

/-- Settles O44. -/
theorem lineCountAndAckCommands : Obligations.LineCountAndAckCommands := by
  intro dt q n s takes p queue
  refine ⟨fun rate limit => ?_, ?_, fun older newer e split other => ?_, fun stamp absent => ?_⟩
  · refine command_own_rule (code := .setLine) takes rfl (r := ⟨_, .ok, [rateCode rate, limit]⟩) ?_
    have sound : firstFault (setLineChecks (rateCode rate)) = none := by cases rate <;> rfl
    show ruleSetLine (rateCode rate) limit p = _
    unfold ruleSetLine
    rw [checked_sound sound, rateOf_rateCode]
    have now : p.now = s.now + dt := (taken_frame dt q s).1
    rw [← now]
    rfl
  · exact command_own_rule (code := .clearCounts) takes rfl rfl
  · refine command_own_rule (code := .eventAck) takes rfl (r := ⟨_, .ok, _⟩) ?_
    show ruleEventAck e.stamp p = _
    unfold ruleEventAck
    have found : p.events.queue.findIdx? (fun x => x.stamp == e.stamp) = some older.length :=
      (congrArg _ split).trans (findIdx_stamp other)
    have rest : p.events.queue.drop (older.length + 1) = newer := by
      rw [show p.events.queue = older ++ e :: newer from split]
      simp
    have left : p.events.queue.length - (older.length + 1) = newer.length := by
      rw [← List.length_drop, rest]
    simp only [found, rest, left]
  · refine command_own_reply (code := .eventAck) takes rfl
      (r := answer .notFound [byteOf queue.length, orNone (queue.head?.map fun e => e.stamp)] p) ?_ ?_
    · show ruleEventAck stamp p = _
      unfold ruleEventAck
      have missing : p.events.queue.findIdx? (fun x => x.stamp == stamp) = none :=
        List.findIdx?_eq_none_iff.mpr fun x member => by simpa using absent x member
      simp only [missing]
      rfl
    · show [byteOf queue.length, orNone (queue.head?.map fun e => e.stamp)] = _
      cases queue <;> rfl

/-! ### The station -/

theorem State.assigned_of_none {s : State} (h : s.mgmt.station = none) : s.assigned = false := by
  unfold State.assigned
  rw [h]
  rfl

/-- Settles O45. -/
theorem stationIsAssignedAndUnassigned : Obligations.StationIsAssignedAndUnassigned := by
  intro dt q s p numbered
  have sameStation : p.mgmt.station = s.mgmt.station := by
    show (Claims.taken dt q s).mgmt.station = _
    rw [taken_mgmt]
  refine ⟨fun m takes none => ?_, fun b takes stays => ?_, fun n b takes => ?_, fun n takes => ?_⟩
  · refine (command_broadcast_rule (code := .assignStation) takes rfl rfl).trans ?_
    show Host.Outcome.next (ruleAssignStation .broadcast (byteOf m.val) p).state = _
    unfold ruleAssignStation
    dsimp only
    rw [if_neg (by rw [State.assigned_of_none (sameStation.trans none)]; nofun), checked_sound]
    · rw [finOf_byteOf (by decide)]
      rfl
    · rw [firstFault_none_iff]
      simp [stationChecks, below_byteOf]
  · refine (command_broadcast_rule (code := .assignStation) takes rfl rfl).trans ?_
    show Host.Outcome.next (ruleAssignStation .broadcast b p).state = _
    unfold ruleAssignStation
    dsimp only
    split
    case isTrue => rfl
    case isFalse unassigned =>
      have big : 15 ≤ b.toNat := by
        refine stays.resolve_left fun assigned => unassigned ?_
        rw [← sameStation] at assigned
        exact Option.isSome_iff_ne_none.mpr assigned
      rw [show stationChecks b = [(1, below 15 b)] from rfl, checked_first (below_faulty big)]
      rfl
  · refine command_own_reply (code := .assignStation) takes rfl (r := answer .state _ p) rfl ?_
    show [stationByte p.mgmt.station] = _
    rw [sameStation, takesOwn_station takes]
    rfl
  · exact command_own_rule (code := .unassign) takes rfl rfl

end Sys2Proof.Machine
end

section
/-!
PROOFS. The reads of the tag table, of a channel, of a capture input, of the sampler and of the publish unit
(R54, R55, R77, R78, R130, R146, R161 and 12.5).
-/

namespace Sys2Proof.Machine

/-! ### Bytes of 12.5 -/

theorem runtimeByte_eq (r : Runtime) : runtimeByte r =
    byteOf ((match r.lastSeq with
      | some q => 64 + q.toNat
      | none => 0) + (if r.lastGeneration = none then 0 else 128)) := by
  have byte (q : Option Seq) (generation : Bool) :
      (q.getD 0).zeroExtend 8 ||| (if q.isSome then (0x40 : Byte) else 0) ||| (if generation then (0x80 : Byte) else 0) =
        byteOf ((match q with
          | some q => 64 + q.toNat
          | none => 0) + (if generation then 128 else 0)) := by
    revert generation q
    decide
  unfold runtimeByte
  rw [byte]
  cases r.lastGeneration <;> rfl

theorem lastMarkByte_eq (m : LastMark) :
    lastMarkByte m = m.groups.setWidth 8 + (if m.cycle = none then 0 else 128) := by
  have byte (groups : GroupSet) (mark : Bool) :
      groups.zeroExtend 8 ||| (if mark then (0x80 : Byte) else 0) =
        groups.setWidth 8 + (if mark then (128 : Byte) else 0) := by
    revert mark groups
    decide
  unfold lastMarkByte maskByte
  rw [byte]
  cases m.cycle <;> rfl

theorem bank_of_selector (t : TagTable) (shadow : Bool) :
    t.bank (if shadow then 1 else 0) = if shadow then t.shadow else t.active := by
  cases shadow <;> rfl

theorem byteOf_toNat_of_le {n : Nat} (h : n ≤ 255) : (byteOf n).toNat = n := byteOf_toNat (by omega)

/-- R55: the operands of READ_UNPACK and WRITE_UNPACK that name a run within the table. -/
theorem runChecks_sound {pos : Nat} {first number : Nat} (low : 1 ≤ number) (high : number ≤ 6)
    (within : first + number ≤ 48) : ∀ c ∈ runChecks pos (byteOf first) (byteOf number), c.2 = true := by
  have readFirst : (byteOf first).toNat = first := byteOf_toNat_of_le (by omega)
  have readNumber : (byteOf number).toNat = number := byteOf_toNat_of_le (by omega)
  simp only [runChecks, below, readFirst, readNumber, List.mem_cons, List.not_mem_nil, or_false, forall_eq_or_imp,
    forall_eq, Bool.and_eq_true, decide_eq_true_eq]
  omega

theorem tagReadsReplyWithTheBank : Claims.TagReadsReplyWithTheBank := by
  intro dt q n shadow s takes p bank selector
  have tags : p.tags = s.tags := by simp [p]
  have bankSound : (bankIsShadow selector).isSome = true := by
    show (bankIsShadow (if shadow then 1 else 0)).isSome = true
    cases shadow <;> rfl
  have read : s.tags.bank selector = bank := bank_of_selector s.tags shadow
  refine ⟨fun tag => ?_, fun first number low high within => ?_⟩
  · refine command_own_reply (code := .readTag) takes rfl (r := answer .ok (entryBytes bank.entries[tag] ++
      [s.tags.generation, runtimeByte s.tags.runtime[tag], s.tags.runtime[tag].accepted,
        s.tags.runtime[tag].lastGeneration.getD 0]) p) ?_ ?_
    · show ruleReadTag selector (byteOf tag.val) p = _
      unfold ruleReadTag
      rw [checked_sound]
      · simp only [tags, read, finOf_byteOf (show 64 ≤ 256 by decide), Option.getD_some]
      · rw [firstFault_none_iff]
        simp [readTagChecks, bankSound, below_byteOf]
    · rw [runtimeByte_eq]
      rfl
  · refine command_own_reply (code := .readUnpack) takes rfl
      (r := answer .ok (((bank.descriptors.toList.drop first.val).take number).map descriptorBytes).flatten p) ?_ ?_
    · show ruleReadUnpack selector (byteOf first.val) (byteOf number) p = _
      unfold ruleReadUnpack
      have readFirst : (byteOf first.val).toNat = first.val := byteOf_toNat_of_le (by omega)
      have readNumber : (byteOf number).toNat = number := byteOf_toNat_of_le (by omega)
      rw [checked_sound]
      · simp only [tags, read, readFirst, readNumber]
      · rw [firstFault_none_iff]
        simp only [readUnpackChecks, List.mem_cons, forall_eq_or_imp, bankSound, true_and]
        exact runChecks_sound low high within
    · rw [List.flatMap_def]
      rfl

/-! ### READ_CHANNEL and READ_CAPTURE -/

theorem recordsBytes_eq (c : Channel) : recordsBytes c =
    orAbsent c.stage.setpoint ++ orAbsent c.stage.delay ++
      [match c.stage.source with
        | some t => byteOf t.val
        | none => 0xFF] ++
      orAbsent c.armed.setpoint ++ orAbsent c.armed.delay ++ orAbsent (some c.active.setpoint) ++
      orAbsent (some c.active.delay) := by
  unfold recordsBytes
  cases c.stage.source <;> rfl

theorem readChannel_sound (d : Chan) {view : Byte} (isView : view.toNat < 3) :
    firstFault (readChannelChecks (byteOf d.val) view) = none := by
  rw [firstFault_none_iff]
  simp [readChannelChecks, below_byteOf, below_iff, isView]

theorem captureBytes_eq (tick : Tick) (now : Time) (c : Capture) : captureBytes tick now c =
    [captureModeCode c.mode,
      match c.edge with
      | some .rising => 0
      | some .falling => 1
      | none => 0xFF,
      match c.filter with
      | .f0 => 0
      | .f2 => 2
      | .f4 => 4
      | .f8 => 8,
      measureCode c.measure, byteOf ((c.progress tick now).toNat / 256), byteOf (c.progress tick now).toNat,
      match c.filtered with
      | some .low => 0
      | some .high => 1
      | none => 0xFF,
      byteOf (c.value.toNat / 256), byteOf c.value.toNat, captureStatusCode c.status, c.seq] := by
  have edge : orNone (c.edge.map edgeCode) = match c.edge with
      | some .rising => 0
      | some .falling => 1
      | none => 0xFF := by rcases c.edge with _ | _ | _ <;> rfl
  have filter : byteOf c.filter.width = match c.filter with
      | .f0 => 0
      | .f2 => 2
      | .f4 => 4
      | .f8 => 8 := by cases c.filter <;> rfl
  have level : orNone (c.filtered.map levelCode) = match c.filtered with
      | some .low => 0
      | some .high => 1
      | none => 0xFF := by rcases c.filtered with _ | _ | _ <;> rfl
  unfold captureBytes
  rw [edge, filter, level]
  rfl

theorem channelAndCaptureReads : Claims.ChannelAndCaptureReads := by
  intro dt q n s takes p two
  have chans : p.chans = s.chans := by simp [p]
  have groups : p.groups = s.groups := by simp [p]
  have lastMark : p.lastMark = s.lastMark := by simp [p]
  have caps : p.caps = s.caps := by simp [p]
  have cycle : p.cycle = s.cycle := by simp [p]
  have now : p.now = s.now + dt := by simp [p]
  refine ⟨fun d => ?_, fun k => ?_⟩
  · intro c r counts
    have countsRead : countsBytes p s.chans[d] = counts := by
      unfold countsBytes
      simp only [groups, lastMark, lastMarkByte_eq]
      rfl
    have rule (view : Byte) (isView : view.toNat < 3) : ruleReadChannel (byteOf d.val) view p =
        if view = 0 then answer .ok (recordsBytes s.chans[d]) p else
          { state := if view = 2 then p.clearChannelCounts d else p, result := .ok,
            data := countsBytes p s.chans[d] } := by
      unfold ruleReadChannel
      rw [checked_sound (readChannel_sound d isView)]
      simp only [finOf_byteOf (show 6 ≤ 256 by decide), chans, Option.getD_some]
    refine ⟨?_, ?_, ?_⟩
    · refine command_own_reply (code := .readChannel) (ops := [byteOf d.val, 0]) takes rfl (rule 0 (by decide)) ?_
      exact recordsBytes_eq s.chans[d]
    · exact command_own_reply (code := .readChannel) (ops := [byteOf d.val, 1]) takes rfl (rule 1 (by decide)) countsRead
    · refine (command_own_reply (code := .readChannel) (ops := [byteOf d.val, 2]) takes rfl (rule 2 (by decide))
        countsRead).trans ?_
      rw [if_neg (by decide), if_pos rfl]
      show Host.Outcome.next (Claims.replied 0x27 q .ok counts (p.clearChannelCounts d)) = _
      have cleared : p.clearChannelCounts d = { p with
          chans := s.chans.set d { c with stage := { c.stage with overwrite := 0 }, clamp := 0, ignored := 0 },
          groups := s.groups.set c.config.group { r with discard := 0 } } := by
        unfold State.clearChannelCounts State.setChan State.setGroup
        simp only [chans, groups]
        rfl
      rw [cleared]
  · intro c progress
    refine command_own_reply (code := .readCapture) takes rfl
      (r := answer .ok (captureBytes s.cycle.tick (s.now + dt) s.caps[k]) p) ?_ ?_
    · show ruleReadCapture (byteOf k.val) p = _
      unfold ruleReadCapture
      rw [checked_sound]
      · simp only [finOf_byteOf (show 4 ≤ 256 by decide), caps, cycle, now, Option.getD_some]
      · rw [firstFault_none_iff]
        simp [readCaptureChecks, below_byteOf]
    · have same : s.caps[k].progress s.cycle.tick (s.now + dt) = progress := by
        unfold Capture.progress
        rfl
      have read := captureBytes_eq s.cycle.tick (s.now + dt) s.caps[k]
      rw [same] at read
      exact read

/-- Settles O42. -/
theorem tableChannelAndCaptureReads : Obligations.TableChannelAndCaptureReads :=
  ⟨tagReadsReplyWithTheBank, channelAndCaptureReads⟩

end Sys2Proof.Machine
end

section
/-!
PROOFS. READ_SAMPLES and READ_PUBLISH (R146, R161 and 12.5).
-/

namespace Sys2Proof.Machine

/-! ### What the items of a publish map read -/

theorem State.itemSeq_congr {s t : State} (caps : t.caps = s.caps) (sampler : t.sampler = s.sampler) :
    t.itemSeq = s.itemSeq := by
  funext item
  cases item <;> simp only [State.itemSeq, caps, sampler]

theorem State.itemBytes_congr {s t : State} (caps : t.caps = s.caps) (sampler : t.sampler = s.sampler)
    (chans : t.chans = s.chans) (groups : t.groups = s.groups) (cycle : t.cycle = s.cycle) (fresh : Byte) :
    t.itemBytes fresh = s.itemBytes fresh := by
  funext item
  cases item <;> simp only [State.itemBytes, State.groupState, caps, sampler, chans, groups, cycle]

theorem State.freshByte_congr {s t : State} (caps : t.caps = s.caps) (sampler : t.sampler = s.sampler)
    (publish : t.publish = s.publish) (b : Buf) : t.freshByte b = s.freshByte b := by
  unfold State.freshByte State.mapSeqs
  rw [State.itemSeq_congr caps sampler, publish]

/-- 9.2: an item has as many bytes as its size says. -/
theorem State.itemBytes_length (s : State) (fresh : Byte) (item : SourceItem) :
    (s.itemBytes fresh item).length = item.size := by cases item <;> rfl

/-- 12.5: the presence byte marks the entries that have a last-served sequence. -/
theorem getLsbD_presenceByte (served : Vector (Option Byte) 8) (i : Fin 8) :
    (presenceByte served).getLsbD i.val = served[i].isSome := by
  have fold (L : List (Fin 8)) (b : Byte) :
      (L.foldl (fun b j => if served[j].isSome then b ||| byteOf (2 ^ j.val) else b) b).getLsbD i.val =
        (b.getLsbD i.val || (decide (i ∈ L) && served[i].isSome)) := by
    induction L generalizing b with
    | nil => simp
    | cons j L ih =>
      rw [List.foldl_cons, ih]
      by_cases here : i = j
      case pos =>
        subst here
        cases served[i].isSome <;> simp [getLsbD_byteOf_two_pow i.val i.isLt]
      case neg =>
        have apart : ¬j.val = i.val := fun same => here (Fin.ext same.symm)
        have other : decide (i ∈ j :: L) = decide (i ∈ L) := by simp [here]
        rw [other]
        split
        · rw [BitVec.getLsbD_or, getLsbD_byteOf_two_pow j.val i.isLt, decide_eq_false apart, Bool.or_false]
        · rfl
  unfold presenceByte
  rw [fold]
  simp

theorem readPublish_sound {view operand half : Byte} (isView : view.toNat < 4)
    (inRange : (if view = 3 then below 32 operand else below 8 operand) = true)
    (halfOk : view ≠ 2 ∨ half.toNat ≤ 1) : firstFault (readPublishChecks view operand half) = none := by
  rw [firstFault_none_iff]
  have halfSound : (decide (view ≠ 2) || below 2 half) = true := by
    rw [Bool.or_eq_true, decide_eq_true_eq, below_iff]
    exact halfOk.imp id Nat.lt_succ_of_le
  simp only [readPublishChecks, List.mem_cons, List.not_mem_nil, or_false, forall_eq_or_imp, forall_eq]
  exact ⟨(below_iff _ _).mpr isView, inRange, halfSound⟩

/-- R161: the three views of a buffer. -/
theorem ruleReadPublish_buffer {view half : Byte} (b : Buf) (s : State) (isView : view.toNat < 3)
    (halfOk : view ≠ 2 ∨ half.toNat ≤ 1) : ruleReadPublish view (byteOf b.val) half s =
      if view = 0 then answer .ok (mapBytes b s) s
      else if view = 1 then answer .ok (servedBytes s.publish.records[b]) s
      else answer .ok (snapshotHalf half s.publish.records[b]) s := by
  have notSource : view ≠ 3 := fun h => by rw [h] at isView; exact absurd isView (by decide)
  unfold ruleReadPublish
  rw [checked_sound (readPublish_sound (by omega) (by rw [if_neg notSource, below_byteOf (by decide)]) halfOk)]
  simp only [finOf_byteOf (show 8 ≤ 256 by decide), Option.getD_some]
  split
  · rfl
  · split
    · rfl
    case isFalse notMap notServed =>
      rw [if_pos]
      have other : view.toNat ≠ 0 ∧ view.toNat ≠ 1 :=
        ⟨fun h => notMap (BitVec.eq_of_toNat_eq h), fun h => notServed (BitVec.eq_of_toNat_eq h)⟩
      refine BitVec.eq_of_toNat_eq ?_
      show view.toNat = 2
      omega

/-- R161: the SOURCE view. -/
theorem ruleReadPublish_source {half : Byte} (i : Fin 32) (s : State) :
    ruleReadPublish 3 (byteOf i.val) half s = rulePublishSource i s := by
  unfold ruleReadPublish
  rw [checked_sound (readPublish_sound (by decide) (by rw [if_pos rfl, below_byteOf (by decide)]) (.inl (by decide)))]
  rw [if_neg (by decide), if_neg (by decide), if_neg (by decide), finOf_byteOf (by decide)]
  rfl

theorem sourceBytes_one {s : State} {item : SourceItem} {x : Byte} (reads : s.itemBytes 0 item = [x]) :
    sourceBytes s 0 item = [sourceKindCode item, orNone (sourceSelector item), 1, 0, x] ++
      [flagByte (s.itemSeq item).isSome, (s.itemSeq item).getD 0] := by
  have size : item.size = 1 := by rw [← s.itemBytes_length 0, reads]; rfl
  unfold sourceBytes
  rw [reads, size]
  rfl

theorem sourceBytes_two {s : State} {item : SourceItem} {x y : Byte} (reads : s.itemBytes 0 item = [x, y]) :
    sourceBytes s 0 item = [sourceKindCode item, orNone (sourceSelector item), 2, x, y] ++
      [flagByte (s.itemSeq item).isSome, (s.itemSeq item).getD 0] := by
  have size : item.size = 2 := by rw [← s.itemBytes_length 0, reads]; rfl
  unfold sourceBytes
  rw [reads, size]
  rfl

/-! ### READ_SAMPLES -/

theorem readSamples_sound {view input : Byte} (isView : view.toNat < 3) (inputOk : view ≠ 2 ∨ input.toNat < 4) :
    firstFault (readSamplesChecks view input) = none := by
  rw [firstFault_none_iff]
  have inputSound : (decide (view ≠ 2) || below 4 input) = true := by
    rw [Bool.or_eq_true, decide_eq_true_eq, below_iff]
    exact inputOk
  simp only [readSamplesChecks, List.mem_cons, List.not_mem_nil, or_false, forall_eq_or_imp, forall_eq]
  exact ⟨(below_iff _ _).mpr isView, inputSound⟩

/-- R146: the three views of the sampler. -/
theorem ruleReadSamples_eq {view input : Byte} (s : State) (isView : view.toNat < 3)
    (inputOk : view ≠ 2 ∨ input.toNat < 4) : ruleReadSamples view input s =
      if view = 0 then
        answer .ok (sampleBytes s.sampler.inputs[0] ++ sampleBytes s.sampler.inputs[1] ++
          sampleBytes s.sampler.inputs[2] ++ sampleBytes s.sampler.inputs[3]) s
      else if view = 1 then answer .ok (scanBytes s.sampler) s
      else answer .ok (limitsBytes s.sampler.inputs[((finOf 4 input).getD 0 : AnIn)]) s :=
  checked_sound (readSamples_sound isView inputOk)

theorem scanBytes_eq (sm : Sampler) (entry : Nat → Byte) (position : Byte)
    (entries : ∀ i, entry i = orNone ((sm.list[i]?).map fun a => byteOf a.val))
    (positions : position = match sm.scan with
      | .converting pos _ => byteOf pos.val
      | _ => 0xFF) :
    scanBytes sm = [samplerModeCode sm.mode, byteOf sm.list.length, entry 0, entry 1, entry 2, entry 3,
      samplerSourceCode sm.source, scanCode sm.scan, position, sm.overrun] := by
  unfold scanBytes
  rw [positions]
  simp only [entries]
  cases sm.scan <;> rfl

/-- Settles O43. -/
theorem sampleAndPublishReads : Obligations.SampleAndPublishReads := by
  intro dt q n s takes p two result sm entry
  have sampler : p.sampler = s.sampler := by simp [p]
  have caps : p.caps = s.caps := by simp [p]
  have chans : p.chans = s.chans := by simp [p]
  have groups : p.groups = s.groups := by simp [p]
  have cycle : p.cycle = s.cycle := by simp [p]
  have publish : p.publish = s.publish := by simp [p]
  have draws : p.draws = s.draws := by simp [p]
  refine ⟨fun other => ?_, fun other => ?_, fun a => ?_, fun b half => ?_, fun i half => ?_⟩
  · refine command_own_reply (code := .readSamples) (ops := [0, other]) takes rfl
      (ruleReadSamples_eq (view := 0) p (by decide) (.inl (by decide))) ?_
    show sampleBytes p.sampler.inputs[0] ++ sampleBytes p.sampler.inputs[1] ++ sampleBytes p.sampler.inputs[2] ++
      sampleBytes p.sampler.inputs[3] = _
    rw [sampler]
    rfl
  · refine command_own_reply (code := .readSamples) (ops := [1, other]) takes rfl
      (ruleReadSamples_eq (view := 1) p (by decide) (.inl (by decide))) ?_
    show scanBytes p.sampler = _
    rw [sampler]
    refine scanBytes_eq s.sampler entry _ (fun i => ?_) rfl
    show (match s.sampler.list[i]? with
      | some a => byteOf a.val
      | none => 0xFF) = _
    cases s.sampler.list[i]? <;> rfl
  · refine command_own_reply (code := .readSamples) (ops := [2, byteOf a.val]) takes rfl
      (ruleReadSamples_eq (view := 2) p (by decide) (.inr ((below_iff _ _).mp (below_byteOf (by decide) a)))) ?_
    show limitsBytes p.sampler.inputs[((finOf 4 (byteOf a.val)).getD 0 : AnIn)] = _
    simp only [sampler, finOf_byteOf (show 4 ≤ 256 by decide), Option.getD_some]
    rfl
  · intro m r
    refine ⟨?_, ⟨presenceByte r.served, ?_, getLsbD_presenceByte r.served⟩, fun halfOk => ?_⟩
    · refine command_own_reply (code := .readPublish) (ops := [0, byteOf b.val, half]) takes rfl
        (ruleReadPublish_buffer (view := 0) b p (by decide) (.inl (by decide))) ?_
      show mapBytes b p = _
      unfold mapBytes
      rw [State.freshByte_congr caps sampler publish, publish]
      refine congrArg (fun code : Byte => [byteOf m.first.val, byteOf m.count.val,
        byteOf (mapSize s.publish.source m)] ++ twoBytes r.servedCount.toNat ++ [code, s.freshByte b]) ?_
      show serveOutcomeCode r.outcome = _
      rcases r.outcome with _ | _ | _ <;> rfl
    · refine command_own_reply (code := .readPublish) (ops := [1, byteOf b.val, half]) takes rfl
        (ruleReadPublish_buffer (view := 1) b p (by decide) (.inl (by decide))) ?_
      show servedBytes p.publish.records[b] = _
      rw [publish]
      rfl
    · refine command_own_reply (code := .readPublish) (ops := [2, byteOf b.val, half]) takes rfl
        (ruleReadPublish_buffer (view := 2) b p (by decide) (.inr halfOk)) ?_
      show snapshotHalf half p.publish.records[b] = _
      rw [publish]
      rfl
  · intro item kind select sequenced
    have source : p.publish.source[i] = item := by rw [publish]
    have bytes : p.itemBytes 0 = s.itemBytes 0 := State.itemBytes_congr caps sampler chans groups cycle 0
    have seqs : [flagByte (p.itemSeq item).isSome, (p.itemSeq item).getD 0] = sequenced := by
      rw [State.itemSeq_congr caps sampler]
      show _ = (match s.itemSeq item with
        | some v => [1, v]
        | none => [0, 0] : List Byte)
      cases s.itemSeq item <;> rfl
    have selector : orNone (sourceSelector item) = select := by
      show _ = (match sourceSelector item with
        | some v => v
        | none => 0xFF : Byte)
      cases sourceSelector item <;> rfl
    have plain (notFresh : item ≠ .fresh) :
        ruleReadPublish 3 (byteOf i.val) half p = answer .ok (sourceBytes p 0 item) p := by
      rw [ruleReadPublish_source]
      unfold rulePublishSource
      rw [source, if_neg notFresh]
    refine ⟨fun x reads notFresh => ?_, fun x y reads => ?_, fun fresh => ⟨Config.freshOutsideBuild s.draws, ?_⟩⟩
    · refine command_own_reply (code := .readPublish) (ops := [3, byteOf i.val, half]) takes rfl (plain notFresh) ?_
      show sourceBytes p 0 item = _
      rw [sourceBytes_one (by rw [bytes]; exact reads), seqs, selector]
    · refine command_own_reply (code := .readPublish) (ops := [3, byteOf i.val, half]) takes rfl
        (plain fun fresh => ?_) ?_
      · rw [fresh] at reads
        cases reads
      · show sourceBytes p 0 item = _
        rw [sourceBytes_two (by rw [bytes]; exact reads), seqs, selector]
    · refine command_own_rule (code := .readPublish) (ops := [3, byteOf i.val, half]) takes rfl
        (r := ⟨{ p with draws := s.draws + 1 }, .ok, _⟩) ?_
      show ruleReadPublish 3 (byteOf i.val) half p = _
      rw [ruleReadPublish_source]
      unfold rulePublishSource
      rw [source, if_pos fresh, fresh, draws]
      rfl

end Sys2Proof.Machine
end

section
/-!
PROOFS. Fields and codes read back from their bytes (12.1, 12.4, 12.5).
-/

namespace Sys2Proof.Machine

/-! ### The header and the length byte -/

theorem byteOf_extract (n start len : Nat) :
    ((byteOf n).extractLsb' start len).toNat = n % 256 / 2 ^ start % 2 ^ len := by
  rw [BitVec.extractLsb'_toNat, Nat.shiftRight_eq_div_pow]
  rfl

theorem byte_extract (b : Byte) (start len : Nat) :
    (b.extractLsb' start len).toNat = b.toNat / 2 ^ start % 2 ^ len := by
  rw [BitVec.extractLsb'_toNat, Nat.shiftRight_eq_div_pow]

/-- R9: an address byte is read by its upper two bits, and a management one by the two below them. -/
theorem headOf_eq (b : Byte) : headOf b =
    if b.toNat < 64 then some (.tagged .put (b.extractLsb' 0 6).toFin)
    else if b.toNat < 128 then some (.tagged .get (b.extractLsb' 0 6).toFin)
    else if b.toNat < 192 then some (.tagged .mark (b.extractLsb' 0 6).toFin)
    else if b.toNat < 208 then some (.mgmt .command (b.extractLsb' 0 4).toFin)
    else if b.toNat < 223 then some (.mgmt .reply (b.extractLsb' 0 4).toFin)
    else none := by
  have small := b.isLt
  have kind : (b.extractLsb' 6 2).toNat = b.toNat / 64 := by rw [byte_extract]; omega
  have function : (b.extractLsb' 4 2).toNat = b.toNat / 16 % 4 := byte_extract b 4 2
  have value : (b.extractLsb' 0 4).toNat = b.toNat % 16 := by rw [byte_extract]; omega
  unfold headOf
  dsimp only
  split
  case h_1 zero => rw [if_pos (by omega)]
  case h_2 one => rw [if_neg (by omega), if_pos (by omega)]
  case h_3 two => rw [if_neg (by omega), if_neg (by omega), if_pos (by omega)]
  case h_4 zero one two =>
    have zero : _ ≠ _ := zero
    have one : _ ≠ _ := one
    have two : _ ≠ _ := two
    rw [if_neg (by omega : ¬b.toNat < 64), if_neg (by omega : ¬b.toNat < 128), if_neg (by omega : ¬b.toNat < 192)]
    split
    case h_1 command => rw [if_pos (by omega)]
    case h_2 reply =>
      rw [if_neg (by omega : ¬b.toNat < 208)]
      have station : (b.extractLsb' 0 4).toFin = (15 : Fin 16) ↔ ¬b.toNat < 223 := by
        rw [Fin.ext_iff]
        show (b.extractLsb' 0 4).toNat = 15 ↔ _
        omega
      by_cases last : b.toNat < 223
      · rw [if_neg (mt station.mp (not_not_intro last)), if_pos last]
      · rw [if_pos (station.mpr last), if_neg last]
    case h_3 command reply =>
      have command : _ ≠ _ := command
      have reply : _ ≠ _ := reply
      rw [if_neg (by omega), if_neg (by omega)]

theorem tagOf_val (b : Byte) : ((b.extractLsb' 0 6).toFin : Tag).val = b.toNat % 64 := by
  show (b.extractLsb' 0 6).toNat = _
  rw [byte_extract]
  simp

theorem stationOf_val (b : Byte) : ((b.extractLsb' 0 4).toFin : Fin 16).val = b.toNat % 16 := by
  show (b.extractLsb' 0 4).toNat = _
  rw [byte_extract]
  simp

theorem headOf_headByte {h : Head} (valid : h ≠ .mgmt .reply 15) : headOf (headByte h) = some h := by
  rw [headOf_eq]
  match h with
  | .tagged kind tag =>
    have small := tag.isLt
    cases kind with
    | put =>
      have n : (headByte (.tagged .put tag)).toNat = tag.val := byteOf_toNat (by omega)
      rw [n, if_pos small]
      exact congrArg _ (congrArg _ (Fin.ext (by rw [tagOf_val, n]; omega)))
    | get =>
      have n : (headByte (.tagged .get tag)).toNat = 64 + tag.val := byteOf_toNat (by omega)
      rw [n, if_neg (by omega), if_pos (by omega)]
      exact congrArg _ (congrArg _ (Fin.ext (by rw [tagOf_val, n]; omega)))
    | mark =>
      have n : (headByte (.tagged .mark tag)).toNat = 128 + tag.val := byteOf_toNat (by omega)
      rw [n, if_neg (by omega), if_neg (by omega), if_pos (by omega)]
      exact congrArg _ (congrArg _ (Fin.ext (by rw [tagOf_val, n]; omega)))
  | .mgmt .command station =>
    have small := station.isLt
    have n : (headByte (.mgmt .command station)).toNat = 192 + station.val := byteOf_toNat (by omega)
    rw [n, if_neg (by omega), if_neg (by omega), if_neg (by omega), if_pos (by omega)]
    exact congrArg _ (congrArg _ (Fin.ext (by rw [stationOf_val, n]; omega)))
  | .mgmt .reply station =>
    have small := station.isLt
    have other : station.val ≠ 15 := fun last => valid (congrArg _ (Fin.ext last))
    have n : (headByte (.mgmt .reply station)).toNat = 208 + station.val := byteOf_toNat (by omega)
    rw [n, if_neg (by omega), if_neg (by omega), if_neg (by omega), if_neg (by omega), if_pos (by omega)]
    exact congrArg _ (congrArg _ (Fin.ext (by rw [stationOf_val, n]; omega)))

theorem byteOf_eq {n : Nat} {b : Byte} (h : n = b.toNat) : byteOf n = b := by
  subst h
  exact BitVec.ofNat_toNat 8 b

theorem headByte_of_headOf {b : Byte} {h : Head} (read : headOf b = some h) : headByte h = b := by
  have small := b.isLt
  rw [headOf_eq] at read
  split at read
  case isTrue => cases read; exact byteOf_eq (by rw [tagOf_val]; omega)
  case isFalse =>
    split at read
    case isTrue => cases read; exact byteOf_eq (by rw [tagOf_val]; omega)
    case isFalse =>
      split at read
      case isTrue => cases read; exact byteOf_eq (by rw [tagOf_val]; omega)
      case isFalse =>
        split at read
        case isTrue => cases read; exact byteOf_eq (by rw [stationOf_val]; omega)
        case isFalse =>
          split at read
          case isTrue => cases read; exact byteOf_eq (by rw [stationOf_val]; omega)
          case isFalse => cases read

theorem countOf_lengthByteOf (n : Fin 17) (q : Seq) : countOf (lengthByteOf n q) = n.val := by
  have few := n.isLt
  unfold countOf lengthByteOf
  rw [byteOf_extract]
  omega

theorem seqOf_lengthByteOf (n : Fin 17) (q : Seq) : seqOf (lengthByteOf n q) = q := by
  have few := n.isLt
  have small := q.isLt
  refine BitVec.eq_of_toNat_eq ?_
  unfold seqOf lengthByteOf
  rw [byteOf_extract]
  omega

/-! ### Commands, descriptors and items -/

theorem cmdByte_of_cmdOf {b : Byte} {c : CmdCode} (read : cmdOf b = some c) : cmdByte c = b := by
  have found := List.find?_some read
  simpa using found

theorem packedOf_code (size : ValueSize) (chan : Chan) (param : Param) : packedOf (byteOf (chan.val + 8 *
      (match size with
        | .one => 1
        | .two => 2) + 32 * (match param with
        | .setpoint => 0
        | .delay => 1))) = some (chan, size, param) := by
  revert chan
  cases size <;> cases param <;> decide

theorem descriptorOf_descriptorBytes (d : Descriptor) :
    descriptorOf ((descriptorBytes d).getD 0 0) ((descriptorBytes d).getD 1 0) = some d := by
  show descriptorOf (byteOf d.offset.val) _ = _
  unfold descriptorOf
  rw [finOf_byteOf (by decide)]
  have packed : packedOf ((descriptorBytes d).getD 1 0) = some (d.chan, d.size, d.param) :=
    packedOf_code d.size d.chan d.param
  rw [packed]

theorem sourceItemOf_code (item : SourceItem) :
    sourceItemOf (sourceKindCode item) ((sourceSelector item).getD 0xFF) = some item := by
  cases item with
  | captureValue k | captureSeq k | sampleValue k | channelActive d | groupState g =>
    exact congrArg (Option.map _) (finOf_byteOf (by decide) _)
  | cycle | fresh | const => rfl

/-- Settles O37. -/
theorem bytesOfFieldsReadBack : Obligations.BytesOfFieldsReadBack :=
  ⟨fun _ => headOf_headByte, fun _ _ => headByte_of_headOf,
    fun n q => ⟨countOf_lengthByteOf n q, seqOf_lengthByteOf n q⟩, cmdOf_cmdByte, fun _ _ => cmdByte_of_cmdOf,
    descriptorOf_descriptorBytes, sourceItemOf_code⟩

/-! ### The other codes of 12.4 -/

theorem roleOf_roleCode (r : Role) : roleOf (roleCode r) = some r := by cases r <;> rfl

theorem forwardOf_forwardCode (f : Forward) : forwardOf (forwardCode f) = some f := by cases f <;> rfl

theorem expectedOf_expectedCode (e : ExpectedLength) : expectedOf (expectedCode e) = some e := by
  cases e with
  | any => rfl
  | exactly n =>
    have notAny : byteOf n.val ≠ 0xFF := by
      intro same
      have value := congrArg BitVec.toNat same
      rw [byteOf_toNat (by omega)] at value
      have : n.val = 255 := value
      omega
    unfold expectedOf expectedCode
    rw [if_neg notAny, finOf_byteOf (by decide)]
    rfl

theorem maskOk_setWidth (m : GroupSet) : maskOk (m.setWidth 8) = true := by
  revert m
  decide

theorem maskOf_setWidth (m : GroupSet) : maskOf (m.setWidth 8) = m := by
  revert m
  decide

theorem captureModeOf_code (m : CaptureMode) : captureModeOf (captureModeCode m) = some m := by cases m <;> rfl

theorem edgeOf_code (e : Edge) : edgeOf (edgeCode e) = some e := by cases e <;> rfl

theorem filterOf_width (f : Filter) : filterOf (byteOf f.width) = some f := by cases f <;> rfl

theorem samplerSourceOf_code (src : Option SamplerSource) : samplerSourceOf (samplerSourceCode src) = some src := by
  rcases src with _ | _ | _ | k
  · rfl
  · rfl
  · rfl
  · revert k
    decide

end Sys2Proof.Machine
end

section
/-!
PROOFS. The commands that write banks, swap them, and write the publish unit's map and source (R51 to R53,
R56 to R58, R152, R153).
-/

namespace Sys2Proof.Machine

/-! ### The descriptors of WRITE_UNPACK (R53) -/

theorem packedOf_second (d : Descriptor) :
    packedOf ((descriptorBytes d).getD 1 0) = some (d.chan, d.size, d.param) :=
  packedOf_code d.size d.chan d.param

theorem descriptorBytes_eq (d : Descriptor) :
    descriptorBytes d = [(descriptorBytes d).getD 0 0, (descriptorBytes d).getD 1 0] := rfl

theorem descriptorsOf_descriptorBytes (ds : List Descriptor) : descriptorsOf (ds.flatMap descriptorBytes) = ds := by
  induction ds with
  | nil => rfl
  | cons d ds rest =>
    rw [List.flatMap_cons, descriptorBytes_eq]
    show ((descriptorOf _ _).getD .reset :: descriptorsOf (ds.flatMap descriptorBytes)) = _
    rw [descriptorOf_descriptorBytes, rest]
    rfl

theorem descriptorChecks_sound (ds : List Descriptor) (pos : Nat) :
    ∀ c ∈ descriptorChecks pos (ds.flatMap descriptorBytes), c.2 = true := by
  induction ds generalizing pos with
  | nil => nofun
  | cons d ds rest =>
    have offset : below 16 ((descriptorBytes d).getD 0 0) = true := below_byteOf (by decide) d.offset
    rw [List.flatMap_cons, descriptorBytes_eq]
    show ∀ c ∈ (_, _) :: (_, _) :: descriptorChecks _ _, _
    simp only [List.mem_cons, forall_eq_or_imp, offset, packedOf_second]
    exact ⟨trivial, rfl, rest _⟩

theorem length_descriptorBytes (ds : List Descriptor) : (ds.flatMap descriptorBytes).length = 2 * ds.length := by
  induction ds with
  | nil => rfl
  | cons d ds rest =>
    rw [List.flatMap_cons, List.length_append, rest, List.length_cons]
    show 2 + _ = _
    omega

/-- R53: the entries of a run are written, and no other. -/
theorem writeRun_get (ds : List Descriptor) : ∀ (table : Vector Descriptor 48) (first : Nat),
    first + ds.length ≤ 48 → ∀ i : Fin 48, (writeRun table first ds)[i] =
      if first ≤ i.val ∧ i.val < first + ds.length then ds.getD (i.val - first) table[i] else table[i] := by
  induction ds with
  | nil =>
    intro table first _ i
    rw [if_neg (by simp only [List.length_nil]; omega)]
    rfl
  | cons d ds rest =>
    intro table first within i
    rw [List.length_cons] at within ⊢
    show (writeRun (table.setIfInBounds first d) (first + 1) ds)[i] = _
    have written : (table.setIfInBounds first d)[i] = if first = i.val then d else table[i] :=
      Vector.getElem_setIfInBounds i.isLt
    rw [rest _ _ (by omega), written]
    by_cases here : first = i.val
    · rw [if_neg (by omega), if_pos here, if_pos (by omega), here, Nat.sub_self]
      rfl
    · rw [if_neg here]
      by_cases inRun : first + 1 ≤ i.val ∧ i.val < first + 1 + ds.length
      · rw [if_pos inRun, if_pos (by omega), show i.val - first = i.val - (first + 1) + 1 by omega]
        rfl
      · rw [if_neg inRun, if_neg (by omega)]

/-! ### WRITE_TAG (R51, R52) -/

theorem entryOf_codes (e : TagEntry) {commitAfter sync : Byte} (after : e.commitAfter = decide (commitAfter ≠ 0))
    (cycleSync : e.cycleSync = decide (sync ≠ 0)) :
    entryOf (roleCode e.role) (forwardCode e.forward) (expectedCode e.expected) (byteOf e.unpackFirst.val)
      (byteOf e.unpackCount.val) commitAfter (e.filter.setWidth 8) sync (byteOf e.buffer.val) = e := by
  unfold entryOf
  rw [roleOf_roleCode, forwardOf_forwardCode, expectedOf_expectedCode, finOf_byteOf (by decide),
    finOf_byteOf (by decide), finOf_byteOf (by decide), maskOf_setWidth, ← after, ← cycleSync]
  rfl

theorem writeTag_sound (tag : Tag) (e : TagEntry) :
    firstFault (writeTagChecks (byteOf tag.val) (roleCode e.role) (forwardCode e.forward) (expectedCode e.expected)
      (byteOf e.unpackFirst.val) (byteOf e.unpackCount.val) (e.filter.setWidth 8) (byteOf e.buffer.val)) = none := by
  rw [firstFault_none_iff]
  simp [writeTagChecks, roleOf_roleCode, forwardOf_forwardCode, expectedOf_expectedCode, maskOk_setWidth,
    below_byteOf]

theorem forbidden_iff (e : TagEntry) : e.forbidden = true ↔
    (e.role = .publish ∧ e.forward = .down) ∨ (e.role = .consume ∧ e.expected = .any) := by
  unfold TagEntry.forbidden
  simp only [Bool.or_eq_true, Bool.and_eq_true, decide_eq_true_eq]

/-- Settles O47. -/
theorem bankWritesReachTheShadowBank : Obligations.BankWritesReachTheShadowBank := by
  intro dt q n s takes p shadow
  have tags : p.tags = s.tags := by simp [p]
  refine ⟨fun tag e commitAfter sync after cycleSync => ?_, fun first ds low high within => ?_, ?_⟩
  · have ruled : ruleWriteTag (byteOf tag.val) (roleCode e.role) (forwardCode e.forward) (expectedCode e.expected)
        (byteOf e.unpackFirst.val) (byteOf e.unpackCount.val) commitAfter (e.filter.setWidth 8) sync
        (byteOf e.buffer.val) p =
          if e.forbidden then answer .badEntry [byteOf tag.val] p
          else answer .ok [byteOf tag.val]
            (shadow { s.tags.shadow with entries := s.tags.shadow.entries.set tag e.stored }) := by
      unfold ruleWriteTag
      simp only [checked_sound (writeTag_sound tag e), entryOf_codes e after cycleSync,
        finOf_byteOf (show 64 ≤ 256 by decide), Option.getD_some, tags]
      rfl
    refine (command_own_rule (code := .writeTag) (ops := [byteOf tag.val, roleCode e.role, forwardCode e.forward,
      expectedCode e.expected, byteOf e.unpackFirst.val, byteOf e.unpackCount.val, commitAfter, e.filter.setWidth 8,
      sync, byteOf e.buffer.val]) takes rfl ruled).trans ?_
    by_cases forbidden : e.forbidden = true
    · rw [if_pos forbidden, if_pos ((forbidden_iff e).mp forbidden)]
      rfl
    · rw [if_neg forbidden, if_neg (mt (forbidden_iff e).mpr forbidden)]
      rfl
  · have readNumber : (byteOf ds.length).toNat = ds.length := byteOf_toNat_of_le (by omega)
    refine ⟨writeRun s.tags.shadow.descriptors first.val ds, ?_, writeRun_get ds _ _ within⟩
    have length : lengthFault .writeUnpack (byteOf first.val :: byteOf ds.length :: ds.flatMap descriptorBytes) =
        none := by
      unfold lengthFault
      have number : operand (byteOf first.val :: byteOf ds.length :: ds.flatMap descriptorBytes) 1 =
        byteOf ds.length := rfl
      dsimp only
      rw [number, readNumber, if_neg (by simp only [List.length_cons]; omega), if_neg]
      rintro ⟨-, -, other⟩
      exact other (by simp only [List.length_cons, length_descriptorBytes]; omega)
    refine command_own_rule (code := .writeUnpack) takes length (r := answer .ok _ _) ?_
    show ruleWriteUnpack (byteOf first.val) (byteOf ds.length) (ds.flatMap descriptorBytes) p = _
    unfold ruleWriteUnpack
    rw [checked_sound]
    · rw [descriptorsOf_descriptorBytes, byteOf_toNat_of_le (by omega), tags]
      rfl
    · rw [firstFault_none_iff]
      unfold writeUnpackChecks
      exact List.forall_mem_append.mpr ⟨runChecks_sound low high within, descriptorChecks_sound ds 3⟩
  · refine command_own_rule (code := .copyBank) takes rfl (r := answer .ok _ _) ?_
    show ruleCopyBank p = _
    unfold ruleCopyBank
    rw [tags]
    rfl

/-! ### SWAP_BANKS (R57, R58) -/

/-- Settles O48. -/
theorem swapBanksTakesOnlyASoundBank : Obligations.SwapBanksTakesOnlyASoundBank := by
  intro dt q n s takes p g
  have tags : p.tags = s.tags := by simp [p]
  refine ⟨fun sound => ?_, fun tag unsound before => ?_⟩
  · refine command_own_rule (code := .swapBanks) takes rfl (r := answer .ok [g] _) ?_
    show ruleSwapBanks p = _
    unfold ruleSwapBanks
    rw [tags, (bankFault_none_iff s.tags.shadow).mpr sound]
    rfl
  · intro e listed fits refused
    have consume : e.role = .consume := by
      by_contra other
      exact unsound ((entrySound_iff _ _).mpr fun role => absurd role other)
    have named {why : SwapFault} (fails : entryFault s.tags.shadow e = some why) :
        exec (.swapBanks dt .own q) s =
          .next (Claims.replied 0x14 q .badEntry (swapFaultBytes (tag, why)) p) := by
      refine command_own_rule (code := .swapBanks) takes rfl (r := answer .badEntry _ p) ?_
      show ruleSwapBanks p = _
      unfold ruleSwapBanks
      rw [tags, bankFault_first fails before]
      rfl
    exact ⟨fun beyond => named (entryFault_list consume beyond),
      fun within k listed unfit earlier => named (entryFault_descriptor consume within listed unfit earlier)⟩

/-! ### WRITE_SOURCE and WRITE_PUBMAP (R152, R153) -/

/-- R152: a map that holds an item and is longer than 16 bytes. -/
def PubMap.tooLongAt (source : Vector SourceItem 32) (i : Fin 32) (m : PubMap) : Prop :=
  m.first.val ≤ i.val ∧ i.val < m.first.val + m.count.val ∧ 16 < mapSize source m

theorem oversizedMap_none {source : Vector SourceItem 32} {maps : Vector PubMap 8} {i : Fin 32}
    (fits : ∀ b : Buf, ¬maps[b].tooLongAt source i) : oversizedMap source maps i = none :=
  List.findSome?_eq_none_iff.mpr fun b _ => if_neg (fits b)

/-- R152: the lowest buffer whose map is too long is the one that is named. -/
theorem oversizedMap_first {source : Vector SourceItem 32} {maps : Vector PubMap 8} {i : Fin 32} {b : Buf}
    (long : maps[b].tooLongAt source i) (before : ∀ c : Buf, c < b → ¬maps[c].tooLongAt source i) :
    oversizedMap source maps i = some (b, mapSize source maps[b]) :=
  findSome?_finRange_first (if_pos long) fun c earlier => if_neg (before c earlier)

theorem writeSource_sound (i : Fin 32) (item : SourceItem) : firstFault (writeSourceChecks (byteOf i.val)
    (sourceKindCode item) ((sourceSelector item).getD 0xFF)) = none := by
  have kind : below 8 (sourceKindCode item) = true := by cases item <;> rfl
  have selected : (sourceItemOf (sourceKindCode item) ((sourceSelector item).getD 0xFF)).isSome = true := by
    rw [sourceItemOf_code]
    rfl
  rw [firstFault_none_iff]
  unfold writeSourceChecks
  simp only [List.mem_cons, List.not_mem_nil, or_false, forall_eq_or_imp, forall_eq]
  exact ⟨below_byteOf (by decide) i, kind, selected⟩

/-- Settles O54. -/
theorem publishCommandsKeepMapsWithinSixteen : Obligations.PublishCommandsKeepMapsWithinSixteen := by
  intro dt q n s takes p
  have publish : p.publish = s.publish := by simp [p]
  refine ⟨fun i item => ?_, fun b first count within => ?_⟩
  · intro source tooLong run
    have ruled : ruleWriteSource (byteOf i.val) (sourceKindCode item) ((sourceSelector item).getD 0xFF) p =
        match oversizedMap source s.publish.maps i with
        | some (b, size) => answer .badEntry [byteOf b.val, byteOf size] p
        | none => answer .ok [byteOf i.val, byteOf item.size]
            { p with publish := { s.publish with source := source } } := by
      unfold ruleWriteSource
      simp only [checked_sound (writeSource_sound i item), finOf_byteOf (show 32 ≤ 256 by decide), Option.getD_some,
        sourceItemOf_code, publish]
      rfl
    have ran := command_own_rule (code := .writeSource)
      (ops := [byteOf i.val, sourceKindCode item, (sourceSelector item).getD 0xFF]) takes rfl ruled
    refine ⟨fun fits => ran.trans ?_, fun b long before => ran.trans ?_⟩
    · rw [oversizedMap_none fits]
      rfl
    · rw [oversizedMap_first long before]
      rfl
  · intro m size
    have sound : firstFault (writePubmapChecks (byteOf b.val) (byteOf first.val) (byteOf count.val)) = none := by
      rw [firstFault_none_iff]
      simp [writePubmapChecks, below_byteOf, byteOf_toNat_of_le (show first.val ≤ 255 by omega),
        byteOf_toNat_of_le (show count.val ≤ 255 by omega), within]
    have ruled : ruleWritePubmap (byteOf b.val) (byteOf first.val) (byteOf count.val) p =
        if 16 < size then answer .badEntry [byteOf size] p
        else answer .ok [byteOf b.val, byteOf size]
          { p with publish := { s.publish with maps := s.publish.maps.set b m } } := by
      unfold ruleWritePubmap
      simp only [checked_sound sound, finOf_byteOf (show 8 ≤ 256 by decide), finOf_byteOf (show 32 ≤ 256 by decide),
        finOf_byteOf (show 9 ≤ 256 by decide), Option.getD_some, publish]
      rfl
    refine (command_own_rule (code := .writePubmap)
      (ops := [byteOf b.val, byteOf first.val, byteOf count.val]) takes rfl ruled).trans ?_
    by_cases long : 16 < size
    · rw [if_pos long, if_pos long]
      rfl
    · rw [if_neg long, if_neg long]
      rfl

end Sys2Proof.Machine
end

section
/-!
PROOFS. An abandoned relay (R28), and SOFT_RESET (R41, R179).
-/

namespace Sys2Proof.Machine

/-! ### What a DOWN port gives up -/

section
variable {d : DownPort}

theorem DownPort.giveUp_of_free (h : d.state ∈ [DownState.idle, .foreignLow, .stuck]) : d.giveUp = d := by
  simp only [List.mem_cons, List.not_mem_nil, or_false] at h
  unfold DownPort.giveUp
  rcases h with h | h | h <;> rw [h]

theorem DownPort.giveUp_of_sends
    (h : d.state ∈ [DownState.sendingBreak, .rate] ∨ (d.state = .sending ∧ d.cur ≠ none)) :
    d.giveUp = { d with abandoned := true } := by
  simp only [List.mem_cons, List.not_mem_nil, or_false] at h
  unfold DownPort.giveUp
  rcases h with (h | h) | ⟨h, byte⟩
  · rw [h]
  · rw [h]
  · rw [h]
    exact if_pos (Option.isSome_iff_ne_none.mpr byte)

theorem DownPort.giveUp_of_waits (h : d.state = .delimiter ∨ (d.state = .sending ∧ d.cur = none)) :
    d.giveUp = { d with state := .idle } := by
  unfold DownPort.giveUp
  rcases h with h | ⟨h, noByte⟩
  · rw [h]
  · rw [h]
    exact if_neg (by rw [noByte]; nofun)

theorem DownPort.giveUp_of_listens (h : d.state = .listen ∨ d.state = .receive) :
    d.giveUp = { d with state := .idle, heardFrom := some d.since } := by
  unfold DownPort.giveUp
  rcases h with h | h <;> rw [h]

/-- R28 and R41: the parts of a port that it may give up, each with the condition that changes it. -/
theorem DownPort.giveUp_eq (d : DownPort) : d.giveUp = { d with
    state := if d.state = .delimiter ∨ d.state = .listen ∨ d.state = .receive ∨ (d.state = .sending ∧ d.cur = none)
      then .idle else d.state,
    abandoned := if d.state = .sendingBreak ∨ d.state = .rate ∨ (d.state = .sending ∧ d.cur ≠ none)
      then true else d.abandoned,
    heardFrom := if d.state = .listen ∨ d.state = .receive then some d.since else d.heardFrom } := by
  obtain ⟨state, cur⟩ := d
  cases state with
  | sending => cases cur <;> rfl
  | _ => rfl

end

/-! ### R28: an abandoned relay -/

section
variable (n : Nat) (s : State)

theorem State.abandon_relay : (s.abandon n).relay = s.relay.filter fun e => decide (e.frame ≠ n) := by
  have left : (s.abandon n).relay = s.relay.filter fun e => e.frame != n := by
    unfold State.abandon
    dsimp only
    split <;> exact State.dropRelay_relay n (s.dropEntries n)
  rw [left]
  exact List.filter_congr fun e _ => by simp [bne, beq_eq_decide]

theorem State.abandon_fc : (s.abandon n).fc = (s.dropRelay n).fc := by
  have same : ((s.dropEntries n).dropRelay n).fc = (s.dropRelay n).fc := by
    unfold State.dropRelay
    rw [show (s.dropEntries n).fc = s.fc from rfl]
    split
    · split <;> rfl
    · rfl
  unfold State.abandon
  dsimp only
  split <;> exact same

theorem State.abandon_down : (s.abandon n).down = if s.down.frame = n then s.down.giveUp else s.down := by
  have down : ((s.dropEntries n).dropRelay n).down = s.down := by simp
  unfold State.abandon
  dsimp only
  rw [down]
  split
  · rfl
  · exact down

end

/-- Settles O14. -/
theorem abandonedRelayLeavesTheQueue : Obligations.AbandonedRelayLeavesTheQueue := by
  intro n s t
  have fc : t.fc = (s.dropRelay n).fc := State.abandon_fc n s
  have down : t.down = if s.down.frame = n then s.down.giveUp else s.down := State.abandon_down n s
  refine ⟨?_, State.abandon_relay n s, fun other => ?_, fun own state => ?_, fun own state => ?_, fun free => ?_,
    fun own sends => ?_, fun own waits => ?_, fun own listens => ?_⟩
  · show s.abandon n = { s with relay := (s.abandon n).relay, fc := (s.abandon n).fc, down := (s.abandon n).down }
    unfold State.abandon State.dropRelay State.dropEntries
    dsimp only
    repeat' split
    all_goals rfl
  · rw [fc, State.dropRelay, if_neg other]
  · rw [fc, State.dropRelay, if_pos own, if_neg state]
  · rw [fc, State.dropRelay, if_pos own, if_pos state]
  · rw [down]
    rcases free with other | free
    · rw [if_neg other]
    · rw [DownPort.giveUp_of_free free, ite_self]
  · rw [down, if_pos own, DownPort.giveUp_of_sends sends]
  · rw [down, if_pos own, DownPort.giveUp_of_waits waits]
  · rw [down, if_pos own, DownPort.giveUp_of_listens listens]

/-! ### SOFT_RESET -/

theorem keepCarrier_none (q : List RelayEntry) : keepCarrier none q = [] := by
  simp [keepCarrier]

theorem keepCarrier_some (frame : Nat) (q : List RelayEntry) :
    keepCarrier (some frame) q = q.filter fun e => decide (e.frame = frame) := by
  unfold keepCarrier
  refine List.filter_congr fun e _ => ?_
  rw [Option.some_beq_some]
  exact Bool.beq_comm.trans (beq_eq_decide ..)

/-- R179 and R190: the state that SOFT_RESET makes, before its reply. -/
def State.softResetPosted (via : Via) (carrier : Option Nat) (s : State) : State := (ruleSoftReset via carrier s).state

theorem softResetPosted_mgmt (via : Via) (carrier : Option Nat) (s : State) :
    (s.softResetPosted via carrier).mgmt = s.mgmt.softReset := rfl

/-- SOFT_RESET as a row: what it makes of the state beside the management record, and of that record. -/
theorem exec_softReset {dt : Time} {via : Via} {q : Seq} {s : State} (takes : Claims.takesBroadcast q s)
    (assigned : via = .own → s.mgmt.station ≠ none) :
    exec (.softReset dt via q) s = .next { (Claims.taken dt q s).softResetPosted via none with
      mgmt := { s.mgmt with
        lastSeq := none, rejects := 0,
        reply := if via = .own then { result := some .ok, code := some 0x08, seq := some q, data := [] }
          else s.mgmt.reply } } := by
  have posted : ((Claims.taken dt q s).softResetPosted via none).mgmt = { s.mgmt with lastSeq := none, rejects := 0 } := by
    rw [softResetPosted_mgmt, taken_mgmt]
    rfl
  cases via with
  | broadcast =>
    refine (command_broadcast_rule (code := .softReset) takes rfl rfl).trans (congrArg _ ?_)
    show (Claims.taken dt q s).softResetPosted .broadcast none = _
    generalize (Claims.taken dt q s).softResetPosted .broadcast none = t at posted ⊢
    obtain ⟨⟩ := t
    cases posted
    rfl
  | own =>
    obtain ⟨n, station⟩ := Option.ne_none_iff_exists'.mp (assigned rfl)
    obtain ⟨free, fresh⟩ := takes
    refine (command_own_rule (code := .softReset) ⟨free, station, fresh⟩ rfl rfl).trans (congrArg _ ?_)
    show Claims.replied 0x08 q .ok [] ((Claims.taken dt q s).softResetPosted .own none) = _
    unfold Claims.replied
    rw [posted]
    rfl

theorem softResetRowResetsEveryBlock : Claims.SoftResetRowResetsEveryBlock := by
  intro dt via q s takes assigned
  refine ⟨_, exec_softReset takes assigned, ?_⟩
  have high : s.inReset = false := takes.1.1
  rw [Claims.taken_eq]
  refine ⟨rfl, high, rfl, rfl, rfl, ?_, rfl, rfl, keepCarrier_none _, ?_,
    blocksReset_of rfl rfl rfl rfl rfl rfl rfl rfl⟩
  · cases via <;> rfl
  · show { s.down.giveUp with counts := DownCounts.zero } = _
    rw [DownPort.giveUp_eq]
    rfl

theorem softResetKeepsItsCarrier : Claims.SoftResetKeepsItsCarrier := by
  intro via carrier q s fresh t
  have blocks : ∃ mgmt, t = { ({ s with mgmt := { s.mgmt with lastSeq := some q } } : State).softResetPosted via
      (some carrier) with mgmt := mgmt } := by
    refine ⟨t.mgmt, ?_⟩
    show s.takeCommand via (some carrier) q [0x08] = _
    unfold t State.takeCommand
    rw [if_neg fresh]
    cases via <;> rfl
  obtain ⟨mgmt, same⟩ := blocks
  rw [same]
  refine ⟨keepCarrier_some carrier s.relay, fun own => ?_, blocksReset_of rfl rfl rfl rfl rfl rfl rfl rfl⟩
  show { (if some carrier = some s.down.frame then s.down else s.down.giveUp) with counts := DownCounts.zero } = _
  rw [if_pos (congrArg some own.symm)]
  rfl

/-- Settles O46. -/
theorem softResetGivesTheSoftResetValues : Obligations.SoftResetGivesTheSoftResetValues :=
  ⟨softResetRowResetsEveryBlock, softResetKeepsItsCarrier⟩

end Sys2Proof.Machine
end

section
/-!
PROOFS. The commands on groups: CONFIG_GROUP, GROUP_START, GROUP_STOP, GROUP_RESUME and COMMIT (R75, R76, R88, R91,
R104 to R106, R113).
-/

namespace Sys2Proof.Machine

/-! ### A command that acts on each group of a set (R104) -/

theorem allGroups_mem (g : Group) : g ∈ allGroups := by revert g; decide

theorem allGroups_eq : allGroups = List.finRange 4 := by decide

theorem allChans_eq : allChans = List.finRange 6 := by decide

section
variable {p : Group → Bool} {turn : Group → State → State} {s : State}

/-- R104: what one group's turn does to a part of the state is done once, and the turns of the others leave it. -/
theorem State.eachGroup_read {β : Type} {Q : State → Prop} {read : State → β} {act : β → β} {home : Group}
    (keeps : ∀ g t, Q t → Q (turn g t)) (hit : ∀ t, Q t → read (turn home t) = act (read t))
    (miss : ∀ g t, Q t → g ≠ home → read (turn g t) = read t) (start : Q s) :
    read (s.eachGroup p turn) = if p home then act (read s) else read s := by
  have away (l : List Group) : home ∉ l → ∀ t, Q t →
      read (l.foldl (fun t g => if p g then turn g t else t) t) = read t ∧
      Q (l.foldl (fun t g => if p g then turn g t else t) t) := by
    induction l with
    | nil => exact fun _ t ht => ⟨rfl, ht⟩
    | cons g l rest =>
      intro absent t ht
      obtain ⟨other, absent⟩ := List.ne_and_not_mem_of_not_mem_cons absent
      rw [List.foldl_cons]
      split
      · obtain ⟨same, kept⟩ := rest absent _ (keeps g t ht)
        exact ⟨same.trans (miss g t ht (Ne.symm other)), kept⟩
      · exact rest absent t ht
  obtain ⟨before, after, split⟩ := List.append_of_mem (allGroups_mem home)
  have once : (before ++ home :: after).Nodup := by rw [← split]; decide
  have notBefore : home ∉ before := fun early => (List.nodup_append.mp once).2.2 _ early _ (.head _) rfl
  have notAfter : home ∉ after := (List.nodup_cons.mp (List.nodup_append.mp once).2.1).1
  obtain ⟨early, found⟩ := away before notBefore s start
  unfold State.eachGroup
  rw [split, List.foldl_append, List.foldl_cons]
  split
  case isTrue =>
    rw [(away after notAfter _ (keeps home _ found)).1, hit _ found, early]
  case isFalse =>
    rw [(away after notAfter _ found).1, early]

theorem State.eachGroup_group {act : GroupRec → GroupRec}
    (turns : ∀ g t, (turn g t).groups = t.groups.set g (act t.groups[g])) (g : Group) :
    (s.eachGroup p turn).groups[g] = if p g then act s.groups[g] else s.groups[g] := by
  refine State.eachGroup_read (Q := fun _ => True) (read := fun t => t.groups[g]) (home := g) (fun _ _ _ => trivial)
    (fun t _ => ?_) (fun e t _ other => ?_) trivial
  · rw [turns, Vector.read_set, if_pos rfl]
  · rw [turns, Vector.read_set, if_neg (Ne.symm other)]

theorem State.eachGroup_chan {act : Channel → Channel}
    (turns : ∀ g t (d : Chan), (turn g t).chans[d] = if t.chans[d].config.group = g then act t.chans[d] else t.chans[d])
    (config : ∀ c, (act c).config = c.config) (d : Chan) :
    (s.eachGroup p turn).chans[d] = if p s.chans[d].config.group then act s.chans[d] else s.chans[d] := by
  refine State.eachGroup_read (Q := fun t => t.chans[d].config = s.chans[d].config) (read := fun t => t.chans[d])
    (home := s.chans[d].config.group) (fun g t same => ?_) (fun t same => ?_) (fun g t same other => ?_) rfl
  · rw [turns]
    split
    · exact (config _).trans same
    · exact same
  · rw [turns, if_pos (congrArg _ same)]
  · rw [turns, if_neg (fun here => other (here.symm.trans (congrArg _ same)))]

end

theorem groupSetOf_ne_zero_iff (p : Group → Bool) : groupSetOf p ≠ 0 ↔ allGroups.any p = true := by
  unfold groupSetOf allGroups
  simp only [List.any_cons, List.any_nil]
  generalize p 0 = a, p 1 = b, p 2 = c, p 3 = d
  revert a b c d
  decide

theorem maskChecks_sound (mask : GroupSet) : firstFault (maskChecks (mask.setWidth 8)) = none := by
  rw [firstFault_none_iff]
  simp [maskChecks, maskOk_setWidth]

/-! ### CONFIG_GROUP, GROUP_STOP and GROUP_RESUME -/

/-- R106: GROUP_STOP, at once for all groups that it names. -/
theorem State.stopGroups_eq (p : Group → Bool) (s : State) : s.eachGroup p State.stopGroup = { s with
    groups := (s.eachGroup p State.stopGroup).groups, chans := (s.eachGroup p State.stopGroup).chans } := by
  refine State.eachGroup_keeps (P := fun t => t = { s with groups := t.groups, chans := t.chans }) ?_ rfl
  intro g t _ same
  obtain ⟨⟩ := t
  cases same
  rfl

theorem State.stopGroup_chan (g : Group) (t : State) (d : Chan) : (t.stopGroup g).chans[d] =
    if t.chans[d].config.group = g then t.chans[d].stopped else t.chans[d] :=
  State.mapGroupChans_get g Channel.stopped t d

theorem State.stopGroups_group (p : Group → Bool) (s : State) (g : Group) :
    (s.eachGroup p State.stopGroup).groups[g] = if p g then
      { s.groups[g] with state := .stopped, hold := 0, reason := none, endPending := false } else s.groups[g] :=
  State.eachGroup_group (act := fun r => { r with state := .stopped, hold := 0, reason := none, endPending := false })
    (fun _ _ => rfl) g

theorem State.stopGroups_chan (p : Group → Bool) (s : State) (d : Chan) :
    (s.eachGroup p State.stopGroup).chans[d] =
      if p s.chans[d].config.group then s.chans[d].stopped else s.chans[d] :=
  State.eachGroup_chan State.stopGroup_chan (fun _ => rfl) d

theorem State.resumeGroups_group (p : Group → Bool) (s : State) (g : Group) :
    (s.eachGroup p State.resumeGroup).groups[g] =
      if p g then { s.groups[g] with state := .resuming, hold := 0 } else s.groups[g] :=
  State.eachGroup_group (act := fun r => { r with state := .resuming, hold := 0 }) (fun _ _ => rfl) g

/-- R113: GROUP_RESUME, at once for all groups that it acts on. -/
theorem State.resumeGroups_eq (p : Group → Bool) (s : State) : s.eachGroup p State.resumeGroup =
    { s with groups := (s.eachGroup p State.resumeGroup).groups } := by
  refine State.eachGroup_keeps (P := fun t => t = { s with groups := t.groups }) ?_ rfl
  intro g t _ same
  obtain ⟨⟩ := t
  cases same
  rfl

theorem groupCommandsSetTheGroups : Claims.GroupCommandsSetTheGroups := by
  intro dt q n s p
  have groups : p.groups = s.groups := by simp [p]
  have chans : p.chans = s.chans := by simp [p]
  refine ⟨fun g sources limit trip takes => ?_, fun mask => ?_, fun mask takes => ?_⟩
  · have ruled : ruleConfigGroup (byteOf g.val) (sources.setWidth 8) limit (if trip then 1 else 0) p =
        if s.groups[g].state = .stopped then answer .ok [byteOf g.val] { p with
          groups := s.groups.set g { s.groups[g] with sources := sources, holdLimit := limit, quietTrip := trip } }
        else answer .state [groupStateCode s.groups[g].state] p := by
      have tripped : quietTripOf (if trip then 1 else 0) = some trip := by cases trip <;> rfl
      unfold ruleConfigGroup
      rw [checked_sound]
      · simp only [finOf_byteOf (show 4 ≤ 256 by decide), Option.getD_some, maskOf_setWidth, tripped, State.groupState,
          State.setGroup, groups, ite_not]
        rfl
      · rw [firstFault_none_iff]
        unfold configGroupChecks
        simp only [List.mem_cons, List.not_mem_nil, or_false, forall_eq_or_imp, forall_eq, tripped, maskOk_setWidth,
          below_byteOf (show 4 ≤ 256 by decide)]
        exact ⟨trivial, trivial, rfl⟩
    refine (command_own_rule (code := .configGroup) (ops := [byteOf g.val, sources.setWidth 8, limit,
      if trip then 1 else 0]) takes rfl ruled).trans ?_
    split <;> rfl
  · have group := State.stopGroups_group (GroupSet.has mask) p
    have chan := State.stopGroups_chan (GroupSet.has mask) p
    rw [groups] at group
    rw [chans] at chan
    have ruled (via : Via) : runRule via none .groupStop [mask.setWidth 8] p =
        answer .ok [mask.setWidth 8, 0] (p.eachGroup (GroupSet.has mask) State.stopGroup) := by
      show ruleGroupStop (mask.setWidth 8) p = _
      unfold ruleGroupStop
      rw [checked_sound (maskChecks_sound mask), maskOf_setWidth]
      rfl
    refine ⟨_, fun takes => command_own_rule (code := .groupStop) takes rfl (ruled .own), fun takes =>
      (command_broadcast_rule (code := .groupStop) takes rfl rfl).trans (by rw [ruled]), State.stopGroups_eq _ p,
      group, chan⟩
  · intro acted
    let yes := groupSetOf fun g => GroupSet.has mask g && decide (p.groupState g = .fallback)
    let no := groupSetOf fun g => GroupSet.has mask g && decide (p.groupState g ≠ .fallback)
    have ruled : ruleGroupResume (mask.setWidth 8) p = answer (if no = 0 then .ok else .state)
        [yes.setWidth 8, no.setWidth 8] (p.eachGroup (GroupSet.has yes) State.resumeGroup) := by
      unfold ruleGroupResume
      rw [checked_sound (maskChecks_sound mask), maskOf_setWidth]
      dsimp only
      rw [ite_not]
      rfl
    refine ⟨yes, no, p.eachGroup (GroupSet.has yes) State.resumeGroup,
      command_own_rule (code := .groupResume) (ops := [mask.setWidth 8]) takes rfl ruled,
      State.resumeGroups_eq _ p, fun g => ⟨?_, ?_, ?_⟩⟩
    · exact (groupSetOf_has _ g).trans (by simp only [State.groupState, groups]; rfl)
    · refine (groupSetOf_has _ g).trans ?_
      have both (m b : Bool) : (m && !b) = (m && !(m && b)) := by cases m <;> cases b <;> rfl
      show (mask.getLsbD g.val && decide (¬p.groups[g].state = .fallback)) =
        (mask.getLsbD g.val && !(mask.getLsbD g.val && decide (s.groups[g].state = .fallback)))
      rw [groups, decide_not, ← both]
    · refine (State.resumeGroups_group _ p g).trans ?_
      rw [groupSetOf_has, groups]
      simp only [State.groupState, groups]
      rfl

/-! ### COMMIT (R76) -/

theorem commits_eq (g : GroupState) : g.commits = decide (g = .run ∨ g = .resuming) := by cases g <;> rfl

theorem discards_eq (g : GroupState) : g.discards = !decide (g = .run ∨ g = .resuming) := by cases g <;> rfl

theorem commitCommandRequestsItsGroups : Claims.CommitCommandRequestsItsGroups := by
  intro dt q n mask s p t source active
  have groups : p.groups = s.groups := by simp [p]
  have requests : p.requestCommits .mgmt (GroupSet.has mask) = t := by
    show _ = List.foldl _ _ (List.filter _ _)
    rw [List.foldl_filter]
    rfl
  have ruled (via : Via) : runRule via none .commit [mask.setWidth 8] p =
      answer (if groupSetOf (fun g => GroupSet.has mask g && p.groups[g].accepts .mgmt) = mask then .ok else .state)
        [(groupSetOf fun g => GroupSet.has mask g && p.groups[g].accepts .mgmt).setWidth 8,
          (groupSetOf fun g => GroupSet.has mask g && !p.groups[g].sources.getLsbD 2).setWidth 8,
          (groupSetOf fun g => GroupSet.has mask g && p.groups[g].sources.getLsbD 2 &&
            (p.groupState g).discards).setWidth 8] t := by
    show ruleCommit (mask.setWidth 8) p = _
    unfold ruleCommit
    rw [checked_sound (maskChecks_sound mask), maskOf_setWidth, ← requests]
    rfl
  refine ⟨fun takes => (command_broadcast_rule (code := .commit) takes rfl rfl).trans (by rw [ruled]; rfl),
    fun takes => ⟨_, _, _, command_own_rule (code := .commit) takes rfl (ruled .own), fun g => ⟨?_, ?_, ?_⟩⟩⟩
  · refine (groupSetOf_has _ g).trans ?_
    rw [groups, Bool.and_assoc]
    exact congrArg _ (congrArg _ (commits_eq _))
  · refine (groupSetOf_has _ g).trans ?_
    rw [groups]
    rfl
  · refine (groupSetOf_has _ g).trans ?_
    unfold State.groupState
    rw [groups]
    exact congrArg _ (discards_eq _)

/-- Settles O52. -/
theorem groupCommandsActOnTheirMasks : Obligations.GroupCommandsActOnTheirMasks :=
  ⟨groupCommandsSetTheGroups, commitCommandRequestsItsGroups⟩

end Sys2Proof.Machine
end

section
/-!
PROOFS. GROUP_START and CONFIG_CHANNEL: the leader tests that they make, and what they store (R86 to R88, R91, R104,
R105).
-/

namespace Sys2Proof.Machine

/-! ### The leader test of a group (R88, R105) -/

theorem groupLeaderFault_none_iff (chans : Vector Channel 6) (g : Group) :
    groupLeaderFault chans g = none ↔ Claims.leadersOk chans g = true := by
  have all : ∀ f : Chan, f ∈ allChans := by decide
  rw [leadersOk_iff]
  unfold groupLeaderFault
  rw [List.findSome?_eq_none_iff]
  refine ⟨fun h f group mode => ?_, fun h f _ => ?_⟩
  · have tested := h f (all f)
    rw [if_pos ⟨group, mode⟩, Option.map_eq_none_iff] at tested
    exact leaderTest_none.mp tested
  · split
    case isTrue own => exact Option.map_eq_none_iff.mpr (leaderTest_none.mpr (h f own.1 own.2))
    case isFalse => rfl

theorem startable_eq (s : State) (g : Group) :
    startable s g = (decide (s.groups[g].state = .stopped) && Claims.leadersOk s.chans g) := by
  unfold startable
  rw [Bool.eq_iff_iff, Bool.and_eq_true, Bool.and_eq_true, Option.isNone_iff_eq_none, groupLeaderFault_none_iff]
  rfl

theorem startFault_isSome (s : State) (g : Group) :
    (startFault s g).isSome = (decide (s.groups[g].state = .stopped) && !Claims.leadersOk s.chans g) := by
  unfold startFault
  rw [show s.groupState g = s.groups[g].state from rfl]
  split
  case isTrue stopped =>
    rw [decide_eq_true stopped, Bool.true_and, Bool.eq_iff_iff, Option.isSome_iff_ne_none, Bool.not_eq_true',
      ← Bool.not_eq_true]
    exact not_congr (groupLeaderFault_none_iff s.chans g)
  case isFalse other => rw [decide_eq_false other]; rfl

/-- R88: the channel that fails the leader test first is the one that is named. -/
theorem groupLeaderFault_first {chans : Vector Channel 6} {g : Group} {f : Chan} {why : LeaderFault}
    (group : chans[f].config.group = g) (mode : chans[f].config.mode = .follow)
    (fails : leaderTest chans f chans[f].config.leader = some why)
    (before : ∀ e : Chan, e < f → chans[e].config.group = g → chans[e].config.mode = .follow →
      followsBelow (fun d => chans[d].config) e) : groupLeaderFault chans g = some (f, why) := by
  unfold groupLeaderFault
  rw [allChans_eq]
  refine findSome?_finRange_first (by rw [if_pos ⟨group, mode⟩, fails]; rfl) fun e earlier => ?_
  split
  case isTrue own => exact Option.map_eq_none_iff.mpr (leaderTest_none.mpr (before e earlier own.1 own.2))
  case isFalse => rfl

/-- R88 and 12.5: ORDER where there is no lower-numbered leader, MODE where the leader cannot lead. -/
theorem leaderTest_fails {chans : Vector Channel 6} {f : Chan} {leader : Option Chan}
    (fails : leaderTest chans f leader ≠ none) : ∃ why, leaderTest chans f leader = some why ∧
      leaderFaultCode why = if ∃ l : Chan, leader = some l ∧ l < f then 2 else 1 := by
  unfold leaderTest at fails ⊢
  cases leader with
  | none => exact ⟨.order, rfl, by simp [leaderFaultCode]⟩
  | some l =>
    dsimp only at fails ⊢
    by_cases above : f ≤ l
    · exact ⟨.order, if_pos above, by
        rw [if_neg (by rintro ⟨m, named, below⟩; cases named; exact absurd below (not_lt.mpr above))]
        rfl⟩
    · rw [if_neg above] at fails ⊢
      have dumb : ¬chans[l].config.mode.mayLead = true := fun leads => fails (if_pos leads)
      exact ⟨.mode, if_neg dumb, by rw [if_pos ⟨l, rfl, not_le.mp above⟩]; rfl⟩

/-! ### GROUP_START (R91, R104, R105) -/

theorem State.startGroups_eq (p : Group → Bool) (s : State) : s.eachGroup p State.startGroup = { s with
    groups := (s.eachGroup p State.startGroup).groups, chans := (s.eachGroup p State.startGroup).chans,
    events := (s.eachGroup p State.startGroup).events } := by
  refine State.eachGroup_keeps
    (P := fun t => t = { s with groups := t.groups, chans := t.chans, events := t.events }) ?_ rfl
  intro g t _ same
  obtain ⟨⟩ := t
  cases same
  rfl

theorem State.startGroup_chan (g : Group) (t : State) (d : Chan) : (t.startGroup g).chans[d] =
    if t.chans[d].config.group = g then t.chans[d].started else t.chans[d] :=
  State.mapGroupChans_get g Channel.started t d

theorem State.startGroups_chan (p : Group → Bool) (s : State) (d : Chan) :
    (s.eachGroup p State.startGroup).chans[d] =
      if p s.chans[d].config.group then s.chans[d].started else s.chans[d] :=
  State.eachGroup_chan State.startGroup_chan (fun _ => rfl) d

theorem State.startGroups_group (p : Group → Bool) (s : State) (g : Group) :
    (s.eachGroup p State.startGroup).groups[g] = if p g then
      { s.groups[g] with state := .run, hold := 0, reason := none, endPending := false } else s.groups[g] :=
  State.eachGroup_group (act := fun r => { r with state := .run, hold := 0, reason := none, endPending := false })
    (fun _ _ => rfl) g

/-- R105: GROUP_RUN is posted for each group that is started, in order. -/
theorem State.startGroups_events (p : Group → Bool) (s : State) :
    (s.eachGroup p State.startGroup).events = (allGroups.filter p).foldl (fun b g => b.post s.cycle.number
      { code := .groupRun, subject := .group g, detail := .started }) s.events := by
  have posts (l : List Group) : ∀ t : State, t.cycle = s.cycle →
      (l.foldl (fun t g => if p g then t.startGroup g else t) t).events = (l.filter p).foldl (fun b g =>
        b.post s.cycle.number { code := .groupRun, subject := .group g, detail := .started }) t.events := by
    induction l with
    | nil => exact fun _ _ => rfl
    | cons g l rest =>
      intro t cycle
      rw [List.foldl_cons]
      by_cases acts : p g = true
      · rw [if_pos acts, List.filter_cons_of_pos acts, List.foldl_cons, rest _ (by simpa using cycle), ← cycle]
        rfl
      · rw [if_neg acts, List.filter_cons_of_neg acts, rest _ cycle]
  exact posts allGroups s rfl

/-- 12.5: the bytes of GROUP_START's reply that name a refusal by entry. -/
theorem startFaultBytes_none {s : State} {named : Group → Bool}
    (sound : ∀ g : Group, named g = true → startFault s g = none) : startFaultBytes s named = [0xFF, 0xFF, 0xFF] := by
  have none : (allGroups.findSome? fun g => if named g then (startFault s g).map fun w => (g, w) else none) = none := by
    rw [List.findSome?_eq_none_iff]
    intro g _
    split
    case isTrue isNamed => rw [sound g isNamed]; rfl
    case isFalse => rfl
  unfold startFaultBytes
  rw [none]

theorem startFaultBytes_first {s : State} {named : Group → Bool} {g : Group} {f : Chan} {why : LeaderFault}
    (isNamed : named g = true) (fails : startFault s g = some (f, why))
    (before : ∀ h : Group, h < g → named h = true → startFault s h = none) :
    startFaultBytes s named = [byteOf g.val, byteOf f.val, leaderFaultCode why] := by
  have first : (allGroups.findSome? fun g => if named g then (startFault s g).map fun w => (g, w) else none) =
      some (g, f, why) := by
    rw [allGroups_eq]
    refine findSome?_finRange_first (by rw [if_pos isNamed, fails]; rfl) fun h earlier => ?_
    split
    case isTrue isNamed => rw [before h earlier isNamed]; rfl
    case isFalse => rfl
  unfold startFaultBytes
  rw [first]

/-- Settles O51. -/
theorem groupStartStartsItsGroups : Obligations.GroupStartStartsItsGroups := by
  intro dt q n mask s takes p acted byEntry byState
  have groups : p.groups = s.groups := by simp [p]
  have chans : p.chans = s.chans := by simp [p]
  have acts (g : Group) : (GroupSet.has mask g && startable p g) = acted g := by
    rw [startable_eq, groups, chans, ← Bool.and_assoc]
    rfl
  have refuses (g : Group) : (GroupSet.has mask g && !startable p g) = (byEntry g || byState g) := by
    rw [startable_eq, groups, chans]
    show (mask.getLsbD g.val && _) = ((mask.getLsbD g.val && _ && _) || (mask.getLsbD g.val && decide (¬_)))
    rw [decide_not]
    cases mask.getLsbD g.val <;> cases decide (s.groups[g].state = .stopped) <;> cases Claims.leadersOk s.chans g <;> rfl
  have faults (g : Group) : (GroupSet.has mask g && (startFault p g).isSome) = byEntry g := by
    rw [startFault_isSome, groups, chans, ← Bool.and_assoc]
    rfl
  let yes := groupSetOf acted
  let no := groupSetOf fun g => byEntry g || byState g
  have has : GroupSet.has yes = acted := funext fun g => groupSetOf_has acted g
  have ruled : ruleGroupStart (mask.setWidth 8) p = answer
      (if allGroups.any byEntry then .badEntry else if allGroups.any byState then .state else .ok)
      (yes.setWidth 8 :: no.setWidth 8 :: startFaultBytes p (GroupSet.has mask))
      (p.eachGroup acted State.startGroup) := by
    have refused : groupSetOf (fun g => byEntry g || byState g) ≠ 0 ↔
        (allGroups.any byEntry = true ∨ allGroups.any byState = true) := by
      rw [groupSetOf_ne_zero_iff]
      simp only [List.any_eq_true, Bool.or_eq_true]
      exact ⟨fun ⟨g, all, either⟩ => either.imp (fun h => ⟨g, all, h⟩) (fun h => ⟨g, all, h⟩),
        fun either => either.elim (fun ⟨g, all, h⟩ => ⟨g, all, .inl h⟩) (fun ⟨g, all, h⟩ => ⟨g, all, .inr h⟩)⟩
    unfold ruleGroupStart
    rw [checked_sound (maskChecks_sound mask), maskOf_setWidth]
    simp only [acts, refuses, faults]
    rw [show groupSetOf (fun g => acted g) = yes from rfl, has]
    refine congrArg (fun result => answer result _ _) ?_
    split
    case isTrue => rfl
    case isFalse none => exact if_congr (refused.trans (or_iff_right none)) rfl rfl
  have stops {g : Group} (refusedByEntry : byEntry g = true) :
      GroupSet.has mask g = true ∧ startFault p g = groupLeaderFault s.chans g := by
    obtain ⟨⟨named, stopped⟩, -⟩ : (mask.getLsbD g.val = true ∧ decide (s.groups[g].state = .stopped) = true) ∧ _ := by
      simpa only [byEntry, Bool.and_eq_true] using refusedByEntry
    refine ⟨named, ?_⟩
    unfold startFault State.groupState
    rw [groups, if_pos (of_decide_eq_true stopped), chans]
  have passes {g : Group} (named : GroupSet.has mask g = true) (notByEntry : byEntry g = false) :
      startFault p g = none := by
    rw [← faults g, named, Bool.true_and] at notByEntry
    exact Option.not_isSome_iff_eq_none.mp (Bool.eq_false_iff.mp notByEntry)
  refine ⟨yes, no, startFaultBytes p (GroupSet.has mask), p.eachGroup acted State.startGroup,
    command_own_rule (code := .groupStart) (ops := [mask.setWidth 8]) takes rfl ruled,
    State.startGroups_eq acted p, ?_, fun g => ⟨groupSetOf_has _ g, groupSetOf_has _ g, ?_⟩, fun d => ?_,
    fun sound => startFaultBytes_none fun g named => passes named ?_, ?_⟩
  · rw [State.startGroups_events, show p.cycle = s.cycle by simp [p]]
  · rw [State.startGroups_group, groups]
  · rw [State.startGroups_chan, chans]
    rfl
  · exact Bool.eq_false_iff.mpr (List.any_eq_false.mp sound g (allGroups_mem g))
  · intro sound g f refusedByEntry lowest group mode unsound earlier
    have follows (e : Chan) : followsBelow (fun d => s.chans[d].config) e ↔ sound e := by
      unfold followsBelow
      simp only [mayLead_iff]
      rfl
    obtain ⟨named, fault⟩ := stops refusedByEntry
    obtain ⟨why, fails, code⟩ := leaderTest_fails (chans := s.chans) (f := f) (leader := s.chans[f].config.leader)
      (fun passed => unsound ((follows f).mp (leaderTest_none.mp passed)))
    rw [startFaultBytes_first named (fault.trans (groupLeaderFault_first group mode fails fun e below own follow =>
      (follows e).mpr (earlier e below own follow))) fun h below named => passes named (lowest h below), code]

/-! ### CONFIG_CHANNEL (R86 to R88) -/

theorem find?_finRange_first {n : Nat} {p : Fin n → Bool} {k : Fin n} (hit : p k = true)
    (before : ∀ j : Fin n, j < k → ¬p j = true) : (List.finRange n).find? p = some k := by
  rw [← List.findSome?_guard]
  exact findSome?_finRange_first (Option.guard_eq_some_iff.mpr ⟨rfl, hit⟩) fun j earlier =>
    Option.guard_eq_none_iff.mpr (Bool.eq_false_iff.mpr (before j earlier))

/-- R86: a FOLLOW channel, in a group that is not STOPPED, that names d as its leader. -/
def State.runsAfter (s : State) (d f : Chan) : Prop :=
  s.groups[s.chans[f].config.group].state ≠ .stopped ∧ s.chans[f].config.mode = .follow ∧
    s.chans[f].config.leader = some d

section
variable {s : State} {d : Chan} {config : ChanConfig}

theorem followerOf_test (f : Chan) : (decide (s.chans[f].config.mode = .follow) &&
    decide (s.chans[f].config.leader = some d) && decide (s.groups[s.chans[f].config.group].state ≠ .stopped)) = true ↔
      s.runsAfter d f := by
  unfold State.runsAfter
  simp only [Bool.and_eq_true, decide_eq_true_eq]
  exact ⟨fun ⟨⟨mode, leader⟩, running⟩ => ⟨running, mode, leader⟩, fun ⟨running, mode, leader⟩ => ⟨⟨mode, leader⟩, running⟩⟩

theorem followerOf_first {f : Chan} (follows : s.runsAfter d f) (before : ∀ e : Chan, e < f → ¬s.runsAfter d e) :
    followerOf s.chans s.groups d = some f := by
  unfold followerOf
  rw [allChans_eq]
  exact find?_finRange_first ((followerOf_test f).mpr follows) fun e earlier => mt (followerOf_test e).mp (before e earlier)

theorem followerOf_none (noFollower : ∀ f : Chan, ¬s.runsAfter d f) : followerOf s.chans s.groups d = none :=
  List.find?_eq_none.mpr fun f _ => mt (followerOf_test f).mp (noFollower f)

theorem channelEntryFault_own {why : LeaderFault} (running : s.groupState config.group ≠ .stopped)
    (mode : config.mode = .follow) (fails : leaderTest s.chans d config.leader = some why) :
    channelEntryFault s d config = some [leaderFaultCode why, 0xFF] := by
  unfold channelEntryFault
  rw [if_pos ⟨running, mode⟩, fails]

theorem channelEntryFault_of_sound (sound : s.groupState config.group = .stopped ∨ config.mode ≠ .follow ∨
    leaderTest s.chans d config.leader = none) : channelEntryFault s d config =
      if config.mode.mayLead then none else (followerOf s.chans s.groups d).map fun f => [3, byteOf f.val] := by
  have passed : (if s.groupState config.group ≠ .stopped ∧ config.mode = .follow then
      leaderTest s.chans d config.leader else none) = none := by
    split
    case isTrue tested =>
      exact (sound.resolve_left tested.1).resolve_left (not_not_intro tested.2)
    case isFalse => rfl
  unfold channelEntryFault
  rw [passed]

end

/-- R86: the seven fields that a channel's configuration takes. -/
def storedConfig (m : ChanMode) (g : Group) (pol : Polarity) (leader : Chan) (trig : ChanTrigger) (re : Retrigger)
    (act : Action) : ChanConfig where
  mode := m
  group := g
  polarity := pol
  leader := if m = .follow then some leader else none
  trigger := if m = .oneshot then some trig else none
  retrigger := if m = .oneshot then some re else none
  action := act

section
variable {m : ChanMode} {g : Group} {pol : Polarity} {leader : Chan} {trig : ChanTrigger} {re : Retrigger}
  {act : Action} {mode polarity leaderByte trigger retrigger action : Byte}

theorem chanConfigOf_codes (modeIs : chanModeOf mode = some m) (polarityIs : polarityOf polarity = some pol)
    (actionIs : actionOf action = some act) (leaderIs : m = .follow → leaderByte = byteOf leader.val)
    (shotIs : m = .oneshot → chanTriggerOf trigger = some trig ∧ retriggerOf retrigger = some re) :
    chanConfigOf mode (byteOf g.val) polarity leaderByte trigger retrigger action =
      storedConfig m g pol leader trig re act := by
  have leads : (if m = .follow then finOf 6 leaderByte else none) = if m = .follow then some leader else none := by
    split
    case isTrue follow => rw [leaderIs follow, finOf_byteOf (by decide)]
    case isFalse => rfl
  have triggers : (if m = .oneshot then chanTriggerOf trigger else none) = if m = .oneshot then some trig else none := by
    split
    case isTrue shot => exact (shotIs shot).1
    case isFalse => rfl
  have retriggers : (if m = .oneshot then retriggerOf retrigger else none) =
      if m = .oneshot then some re else none := by
    split
    case isTrue shot => exact (shotIs shot).2
    case isFalse => rfl
  unfold chanConfigOf storedConfig
  simp only [modeIs, polarityIs, actionIs, Option.getD_some, leads, triggers, retriggers,
    finOf_byteOf (show 4 ≤ 256 by decide)]

theorem configChannel_sound (d : Chan) (modeIs : chanModeOf mode = some m) (polarityIs : polarityOf polarity = some pol)
    (actionIs : actionOf action = some act) (leaderIs : m = .follow → leaderByte = byteOf leader.val)
    (shotIs : m = .oneshot → chanTriggerOf trigger = some trig ∧ retriggerOf retrigger = some re) :
    firstFault (configChannelChecks (byteOf d.val) mode (byteOf g.val) polarity leaderByte trigger retrigger
      action) = none := by
  rw [firstFault_none_iff]
  unfold configChannelChecks
  simp only [List.mem_cons, List.not_mem_nil, or_false, forall_eq_or_imp, forall_eq, modeIs, polarityIs, actionIs,
    below_byteOf (show 4 ≤ 256 by decide), below_byteOf (show 6 ≤ 256 by decide), Option.isSome_some,
    Bool.or_eq_true, decide_eq_true_eq, true_and, and_true]
  refine ⟨?_, ?_, ?_⟩
  · by_cases follow : m = .follow
    · exact .inr (leaderIs follow ▸ below_byteOf (by decide) leader)
    · exact .inl (mt Option.some.inj follow)
  · by_cases shot : m = .oneshot
    · exact .inr (by rw [(shotIs shot).1]; rfl)
    · exact .inl (mt Option.some.inj shot)
  · by_cases shot : m = .oneshot
    · exact .inr (by rw [(shotIs shot).2]; rfl)
    · exact .inl (mt Option.some.inj shot)

end

/-- R87: the override that the new group's state gives. -/
theorem Channel.configured_eq (config : ChanConfig) (state : GroupState) (c : Channel) :
    c.configured config state = { c with
      config := config, latch := false, phase := false,
      override := if state = .fallback ∨ state = .resuming then
          match config.action with
          | .idle => .idle
          | .active => .active
          | .hold => .none
        else .none } := by
  unfold Channel.configured
  cases state with
  | fallback | resuming => cases config.action <;> rfl
  | stopped | run => rfl

/-- Settles O50. -/
theorem configChannelStoresTheConfiguration : Obligations.ConfigChannelStoresTheConfiguration := by
  intro dt q n d m g pol leader trig re act mode polarity leaderByte trigger retrigger action s takes modeIs polarityIs
    actionIs leaderIs shotIs p run c present leads running
  have groups : p.groups = s.groups := by simp [p]
  have chans : p.chans = s.chans := by simp [p]
  let config := storedConfig m g pol leader trig re act
  have ruled : ruleConfigChannel (byteOf d.val) mode (byteOf g.val) polarity leaderByte trigger retrigger action p =
      if present ≠ .stopped then answer .state [byteOf c.config.group.val, groupStateCode present] p
      else match channelEntryFault p d config with
        | some data => answer .badEntry data p
        | none => answer .ok [byteOf d.val] { p with
            chans := s.chans.set d (c.configured config s.groups[g].state) } := by
    unfold ruleConfigChannel
    rw [checked_sound (configChannel_sound d modeIs polarityIs actionIs leaderIs shotIs)]
    simp only [finOf_byteOf (show 6 ≤ 256 by decide), Option.getD_some,
      chanConfigOf_codes modeIs polarityIs actionIs leaderIs shotIs, State.groupState, State.setChan, groups, chans]
    rfl
  have ran {result : CmdResult} {data : List Byte} {t : State}
      (gives : ruleConfigChannel (byteOf d.val) mode (byteOf g.val) polarity leaderByte trigger retrigger action p =
        answer result data t) : run t result data :=
    command_own_rule (code := .configChannel) (ops := [byteOf d.val, mode, byteOf g.val, polarity, leaderByte, trigger,
      retrigger, action]) takes rfl gives
  have follows (f : Chan) : p.runsAfter d f ↔ running f := by
    unfold State.runsAfter
    simp only [groups, chans]
    rfl
  have leadsIff (x : ChanMode) : x.mayLead = true ↔ leads x := mayLead_iff x
  have refused {data : List Byte} (stopped : present = .stopped) (fault : channelEntryFault p d config = some data) :
      run p .badEntry data := ran (by rw [ruled, if_neg (not_not_intro stopped), fault])
  have present' : p.groupState g = s.groups[g].state := by
    unfold State.groupState
    rw [groups]
  have leaderOf (follow : m = .follow) : config.leader = some leader := if_pos follow
  refine ⟨fun busy => ran (ruled.trans (if_pos busy)), fun stopped running follow above => refused stopped ?_,
    fun stopped running follow below dumb => refused stopped ?_,
    fun stopped dumb f follower first => refused stopped ?_, fun stopped own led => ran ?_⟩
  · refine channelEntryFault_own (why := .order) (present' ▸ running) follow ?_
    rw [leaderOf follow]
    exact if_pos above
  · refine channelEntryFault_own (why := .mode) (present' ▸ running) follow ?_
    rw [leaderOf follow, chans]
    exact (if_neg (not_le.mpr below)).trans (if_neg (mt (leadsIff _).mp dumb))
  · have notFollow : config.mode ≠ .follow := fun follow => dumb (.inr (.inr follow))
    have cannot : ¬config.mode.mayLead = true := mt (leadsIff m).mp dumb
    rw [channelEntryFault_of_sound (.inr (.inl notFollow)), if_neg cannot,
      followerOf_first ((follows f).mpr follower) fun e earlier => mt (follows e).mp (first e earlier)]
    rfl
  · have passes : channelEntryFault p d config = none := by
      rw [channelEntryFault_of_sound]
      · rcases led with leads | none
        · exact if_pos ((leadsIff m).mpr leads)
        · rw [followerOf_none fun f => mt (follows f).mp (none f)]
          exact ite_self _
      · rcases own with stopped | other | ⟨below, leads⟩
        · exact .inl (present'.trans stopped)
        · exact .inr (.inl other)
        · by_cases follow : m = .follow
          · refine .inr (.inr ?_)
            rw [leaderOf follow, chans]
            exact (if_neg (not_le.mpr below)).trans (if_pos ((leadsIff _).mpr leads))
          · exact .inr (.inl follow)
    rw [ruled, if_neg (not_not_intro stopped), passes, Channel.configured_eq]
    rfl

end Sys2Proof.Machine
end

section
/-!
PROOFS. CONFIG_CYCLE, and the commands that configure the capture inputs and the sampler (R84, R121, R128, R142,
R144, R145).
-/

namespace Sys2Proof.Machine

/-! ### A cycle start with every group STOPPED -/

theorem Vector.ext_fin {α : Type} {n : Nat} {v w : Vector α n} (h : ∀ i : Fin n, v[i] = w[i]) : v = w :=
  Vector.ext fun i inside => h ⟨i, inside⟩

theorem interleave_nil (order : Nat → Bool) (fuel : Nat) : interleave order fuel ([] : List Posting) [] = [] := by
  cases fuel <;> rfl

section
variable {s : State} (stopped : ∀ g : Group, s.groups[g].state = .stopped)
include stopped

theorem State.startPostings_of_stopped : s.startPostings [] = [] := by
  have notRun (g : Group) : s.groups[g].state ≠ .run := by rw [stopped]; nofun
  have ends : s.endPostings = [] := List.flatMap_eq_nil_iff.mpr fun g _ => if_neg fun runs => notRun g runs.1
  have holds : s.holdPostings = [] := List.flatMap_eq_nil_iff.mpr fun g _ =>
    if_neg fun expires => notRun g (of_decide_eq_true expires).1
  unfold State.startPostings State.eitherOrder
  rw [ends, holds]
  simp only [interleave_nil]

theorem State.cycleStart_chans_of_stopped : (s.cycleStart []).chans = s.chans := by
  refine Vector.ext_fin fun d => ?_
  obtain ⟨-, -, chans, -⟩ := State.cycleStart_spec [] s
  have agrees := chans d _ rfl
  obtain ⟨shot, ignored⟩ := State.cycleStart_barred [] s d _ rfl (.inl (stopped _))
  rw [Channel.cycled_of_stopped (stopped _)] at agrees
  obtain ⟨sh, ig, same⟩ := agrees
  rw [same] at shot ignored ⊢
  simp only at shot ignored
  rw [shot, ignored]

theorem State.cycleStart_groups_of_stopped : (s.cycleStart []).groups = s.groups := by
  refine Vector.ext_fin fun g => ?_
  obtain ⟨-, groups, -⟩ := State.cycleStart_spec [] s
  rw [groups]
  exact if_pos (by rw [stopped]; nofun)

/-- R82: a cycle start with every group STOPPED reaches the capture inputs and the sampler only. -/
theorem State.cycleStart_of_stopped : s.cycleStart [] = { s with
    caps := (s.cycleStart []).caps, sampler := Sampler.atEvent .cycle s.now s.sampler,
    draws := (s.cycleStart []).draws } := by
  have spec := (State.cycleStart_spec [] s).1
  rw [State.startPostings_of_stopped stopped, State.cycleStart_chans_of_stopped stopped,
    State.cycleStart_groups_of_stopped stopped] at spec
  have draws : (s.cycleStart []).draws = s.draws + 2 := by
    rw [spec]
  rw [draws]
  exact spec

end

/-! ### CONFIG_CYCLE (R84, R121) -/

theorem Sampler.atEvent_eq (src : SamplerSource) (now : Time) (sm : Sampler) :
    sm.atEvent src now = Claims.triggered src now sm := by
  unfold Sampler.atEvent Claims.triggered
  rw [ite_not]
  split
  · unfold Sampler.trigger
    cases sm.scan <;> rfl
  · rfl

/-- R121: a timed measurement is abandoned. -/
theorem Capture.retick_eq (now : Time) (c : Capture) : c.retick now = { c with
    change := c.change.map fun ch => { ch with since := now },
    measure := match c.measure, c.mode with
      | .armed _, .period => .unarmed
      | .timing _, .high => .waiting
      | .timing _, .low => .waiting
      | .armed _, m => m.restMeasure
      | .timing _, m => m.restMeasure
      | m, _ => m } := by
  unfold Capture.retick
  cases c.measure with
  | armed | timing => cases c.mode <;> rfl
  | _ => rfl

theorem Capture.atCycleStart_eq (c : Capture) : c.atCycleStart = if c.mode = .count then
    { Claims.stored c c.running (if c.running = 65535 then .overflow else .valid) with running := 0 } else c := by
  unfold Capture.atCycleStart
  cases c.mode <;> rfl

/-- The byte of a tick length (12.4). -/
def Tick.code (tick : Tick) : Byte :=
  match tick with
  | .us1 => 0
  | .us2 => 1
  | .us5 => 2
  | .us10 => 3

/-- The byte of a cycle mode (12.4). -/
def CycleMode.code (mode : CycleMode) : Byte :=
  match mode with
  | .free => 0
  | .marked => 1

theorem tickOf_code (tick : Tick) : tickOf tick.code = some tick := by cases tick <;> rfl

theorem cycleModeOf_code (mode : CycleMode) : cycleModeOf mode.code = some mode := by cases mode <;> rfl

/-- Settles O49. -/
theorem configCycleRestartsTheCounter : Obligations.ConfigCycleRestartsTheCounter := by
  intro dt q n tick mode high low s takes p period code modeByte least most
  have groups : p.groups = s.groups := by simp [p]
  have cycle : p.cycle = s.cycle := by simp [p]
  have caps : p.caps = s.caps := by simp [p]
  have now : p.now = s.now + dt := by simp [p]
  have sampler : p.sampler = s.sampler := by simp [p]
  let busy := groupSetOf fun g => decide (s.groups[g].state ≠ .stopped)
  have ruled : ruleConfigCycle tick.code high low mode.code p =
      if busy ≠ 0 then answer .state [busy.setWidth 8] p
      else answer .ok [tick.code, high, low, mode.code, s.cycle.number + 1] (p.configCycle tick period mode) := by
    have sound : firstFault (configCycleChecks tick.code high low mode.code) = none := by
      rw [firstFault_none_iff]
      unfold configCycleChecks
      simp only [List.mem_cons, List.not_mem_nil, or_false, forall_eq_or_imp, forall_eq, tickOf_code, cycleModeOf_code,
        Bool.and_eq_true, decide_eq_true_eq]
      exact ⟨rfl, ⟨least, most⟩, rfl⟩
    have number : (p.configCycle tick period mode).cycle.number = s.cycle.number + 1 := by
      unfold State.configCycle
      rw [(State.cycleStart_spec _ _).1, cycle]
    unfold ruleConfigCycle
    rw [checked_sound sound]
    simp only [tickOf_code, cycleModeOf_code, Option.getD_some, State.groupState, groups]
    rw [show wordOf high low = period from rfl, number]
    rfl
  have ran {r : Ruling} (gives : ruleConfigCycle tick.code high low mode.code p = r) :
      exec (.configCycle dt .own q code high low modeByte) s = .next (Claims.replied 0x20 q r.result r.data r.state) :=
    command_own_rule (code := .configCycle) (ops := [code, high, low, modeByte]) takes rfl
      ((show _ from by cases tick <;> cases mode <;> rfl : runRule .own none .configCycle [code, high, low, modeByte] p =
        ruleConfigCycle tick.code high low mode.code p).trans gives)
  refine ⟨fun stopped => ?_, fun ⟨g, running⟩ => ⟨busy, ?_, groupSetOf_has _⟩⟩
  · have none : busy = 0 := by
      by_contra some
      rw [← ne_eq, groupSetOf_ne_zero_iff, List.any_eq_true] at some
      obtain ⟨g, -, running⟩ := some
      exact of_decide_eq_true running (stopped g)
    let begun : State := { p with
      cycle := { tick := tick, period := period, mode := mode, base := p.now, number := p.cycle.number + 1 },
      caps := mapCaps (Capture.retick p.now) p.caps }
    have rests : ∀ g : Group, begun.groups[g].state = .stopped := fun g => by
      show p.groups[g].state = _
      rw [groups]
      exact stopped g
    have started : p.configCycle tick period mode = begun.cycleStart [] := rfl
    refine ⟨p.configCycle tick period mode, ran (ruled.trans (if_neg (not_not_intro none))), ?_, fun k => ?_⟩
    · have same := State.cycleStart_of_stopped rests
      rw [Sampler.atEvent_eq] at same
      rw [started, same]
      show { begun with caps := _, sampler := Claims.triggered .cycle p.now p.sampler, draws := _ } = _
      rw [now, sampler, ← now, ← cycle]
    · have read : (p.configCycle tick period mode).caps[k] = (s.caps[k].retick (s.now + dt)).atCycleStart := by
        rw [started, (State.cycleStart_spec [] begun).2.2.2]
        show ((mapCaps (Capture.retick p.now) p.caps)[k]).atCycleStart = _
        rw [mapCaps_read, now, caps]
      exact read.trans ((congrArg Capture.atCycleStart (Capture.retick_eq _ _)).trans (Capture.atCycleStart_eq _))
  · have some_ : busy ≠ 0 := by
      rw [groupSetOf_ne_zero_iff, List.any_eq_true]
      exact ⟨g, allGroups_mem g, decide_eq_true running⟩
    exact ran (ruled.trans (if_pos some_))

/-! ### Capture inputs and sampler (R128, R142, R144, R145) -/

theorem configCapture_sound (k : CapIn) (m : CaptureMode) (e : Edge) (f : Filter) :
    firstFault (configCaptureChecks (byteOf k.val) (captureModeCode m) (edgeCode e) (byteOf f.width)) = none := by
  rw [firstFault_none_iff]
  unfold configCaptureChecks
  simp only [List.mem_cons, List.not_mem_nil, or_false, forall_eq_or_imp, forall_eq, captureModeOf_code, edgeOf_code,
    filterOf_width, below_byteOf (show 4 ≤ 256 by decide), Option.isSome_some, Bool.or_true, and_self]

theorem restMeasure_eq (m : CaptureMode) : m.restMeasure = match m with
    | .off => .off
    | .period => .unarmed
    | .high => .waiting
    | .low => .waiting
    | .count => .counting := by cases m <;> rfl

theorem wordOf_bytes {n : Nat} (h : n < 65536) : wordOf (byteOf (n / 256)) (byteOf n) = n := by
  have high : (byteOf (n / 256)).toNat = n / 256 := byteOf_toNat_of_le (by omega)
  have low : (byteOf n).toNat = n % 256 := BitVec.toNat_ofNat n 8
  unfold wordOf
  rw [high, low]
  omega

theorem setLimits_sound (a : AnIn) {low high : BitVec 10} (trip : GroupSet) (ordered : low ≤ high) :
    firstFault (setLimitsChecks (byteOf a.val) low.toNat high.toNat (trip.setWidth 8)) = none := by
  have small := high.isLt
  have le : low.toNat ≤ high.toNat := ordered
  rw [firstFault_none_iff]
  unfold setLimitsChecks
  simp only [List.mem_cons, List.not_mem_nil, or_false, forall_eq_or_imp, forall_eq, maskOk_setWidth,
    below_byteOf (show 4 ≤ 256 by decide), Bool.and_eq_true, decide_eq_true_eq]
  exact ⟨trivial, by omega, ⟨by omega, le⟩, trivial⟩

/-- R142: the entries that the list length reaches are read, and the others are not. -/
theorem scanList_read (list : List AnIn) (unused : List Byte) :
    ((list.map (fun a => byteOf a.val) ++ unused).take list.length).map (fun b => (finOf 4 b).getD 0) = list := by
  rw [List.take_left' (List.length_map ..), List.map_map]
  refine (List.map_congr_left fun a _ => ?_).trans (List.map_id list)
  show (finOf 4 (byteOf a.val)).getD 0 = a
  rw [finOf_byteOf (by decide)]
  rfl

theorem scanList_sound (list : List AnIn) (unused : List Byte) :
    ∀ c ∈ scanListChecks list.length (list.map (fun a => byteOf a.val) ++ unused), c.2 = true := by
  unfold scanListChecks
  rw [List.take_left' (List.length_map ..)]
  intro c member
  obtain ⟨⟨b, i⟩, zipped, rfl⟩ := List.mem_map.mp member
  obtain ⟨a, -, rfl⟩ := List.mem_map.mp (List.fst_mem_of_mem_zipIdx zipped)
  exact below_byteOf (by decide) a

theorem samplerModeOf_settled (settled : Bool) :
    samplerModeOf (if settled then 2 else 1) = some (if settled then .settled else .immediate) := by
  cases settled <;> rfl

theorem list_of_four {α : Type} {l : List α} (a : α) (four : l.length = 4) :
    [l.getD 0 a, l.getD 1 a, l.getD 2 a, l.getD 3 a] = l := by
  match l, four with
  | [_, _, _, _], _ => rfl

/-- R145: what a trigger whatever the source names does in each state of the scan, with the reply. -/
theorem ruleSampleNow_eq (t : State) : ruleSampleNow t = match t.sampler.scan with
    | .off => answer .state [0] t
    | .ready => answer .ok [4] { t with sampler := { t.sampler with scan := .converting 0 t.now } }
    | .asleep => answer .ok [3] { t with sampler := { t.sampler with scan := .settling t.now } }
    | .settling _ => answer .state [3] { t with sampler := { t.sampler with overrun := satInc t.sampler.overrun } }
    | .converting _ _ =>
      answer .state [4] { t with sampler := { t.sampler with overrun := satInc t.sampler.overrun } } := by
  unfold ruleSampleNow Sampler.trigger
  cases scan : t.sampler.scan <;> simp only [scan] <;> rfl

/-- Settles O53. -/
theorem measurementCommandsConfigure : Obligations.MeasurementCommandsConfigure := by
  intro dt q n s takes p sampler fresh
  have caps : p.caps = s.caps := by simp [p]
  have now : p.now = s.now + dt := by simp [p]
  have same : p.sampler = s.sampler := by simp [p]
  refine ⟨fun k m e f => ?_, fun settled list src unused some four => ?_, fun a b c d e f => ?_,
    fun a low high trip ordered => ?_, ?_⟩
  · refine command_own_rule (code := .configCapture) (ops := [byteOf k.val, captureModeCode m, edgeCode e,
      byteOf f.width]) takes rfl (r := answer .ok _ _) ?_
    show ruleConfigCapture (byteOf k.val) (captureModeCode m) (edgeCode e) (byteOf f.width) p = _
    unfold ruleConfigCapture
    rw [checked_sound (configCapture_sound k m e f)]
    simp only [finOf_byteOf (show 4 ≤ 256 by decide), captureModeOf_code, edgeOf_code, filterOf_width, Option.getD_some,
      State.setCap, caps, now, Capture.configured, restMeasure_eq]
    rfl
  · intro entries
    have few : list.length ≤ 4 := by
      rw [List.length_append, List.length_map] at four
      omega
    have number : (byteOf list.length).toNat = list.length := byteOf_toNat_of_le (by omega)
    refine command_own_rule (code := .configSampler) (ops := [if settled then 2 else 1, byteOf list.length,
      entries.getD 0 0, entries.getD 1 0, entries.getD 2 0, entries.getD 3 0, samplerSourceCode src]) takes rfl
      (r := answer .ok _ _) ?_
    show ruleConfigSampler (if settled then 2 else 1) (byteOf list.length) (entries.getD 0 0) (entries.getD 1 0)
      (entries.getD 2 0) (entries.getD 3 0) (samplerSourceCode src) p = _
    unfold ruleConfigSampler
    have notOff : ¬samplerModeOf (if settled then 2 else 1) = Option.some SamplerMode.off := by
      cases settled <;> nofun
    dsimp only
    rw [list_of_four 0 four, checked_sound]
    · simp only [number, scanList_read, samplerModeOf_settled, samplerSourceOf_code, Option.getD_some, same]
      cases settled <;> rfl
    · rw [firstFault_none_iff]
      unfold configSamplerChecks
      rw [if_neg notOff, number]
      simp only [List.mem_cons, List.mem_append, List.not_mem_nil, or_false, or_imp, forall_and,
        forall_eq, samplerSourceOf_code, samplerModeOf_settled]
      refine ⟨rfl, ?_, scanList_sound list unused, rfl⟩
      simp only [Bool.and_eq_true, decide_eq_true_eq, below_iff, number]
      omega
  · refine command_own_rule (code := .configSampler) (ops := [0, a, b, c, d, e, f]) takes rfl (r := answer .ok _ _) ?_
    show ruleConfigSampler 0 a b c d e f p = _
    unfold ruleConfigSampler
    rw [checked_sound (by rfl), same]
    rfl
  · refine command_own_rule (code := .setLimits) (ops := [byteOf a.val, byteOf (low.toNat / 256), byteOf low.toNat,
      byteOf (high.toNat / 256), byteOf high.toNat, trip.setWidth 8]) takes rfl (r := answer .ok _ _) ?_
    show ruleSetLimits (byteOf a.val) (byteOf (low.toNat / 256)) (byteOf low.toNat) (byteOf (high.toNat / 256))
      (byteOf high.toNat) (trip.setWidth 8) p = _
    unfold ruleSetLimits
    have lowSmall := low.isLt
    have highSmall := high.isLt
    rw [wordOf_bytes (by omega), wordOf_bytes (by omega)]
    dsimp only
    rw [checked_sound (setLimits_sound a trip ordered)]
    simp only [finOf_byteOf (show 4 ≤ 256 by decide), Option.getD_some, BitVec.ofNat_toNat, BitVec.setWidth_eq,
      maskOf_setWidth, same]
    rfl
  · refine (command_own_rule (code := .sampleNow) (ops := []) takes rfl (ruleSampleNow_eq p)).trans ?_
    rw [same, ← now]
    cases s.sampler.scan <;> rfl

end Sys2Proof.Machine
end

section
/-!
PROOFS. A posting (R183), causes of fallback by the quiet timer and the limit check (R37, R39, R63, R109 to R111, R117,
R139, R140), the sampler's scan (R133, R136, R137), and what a drive pin shows (R89, R93 to R98).
-/

namespace Sys2Proof.Machine

/-! ### A posting (R183) -/

theorem postBoth_singles (p q : Posting) (s : State) : s.postBoth [p] [q] =
    s.drawn.postAll (if Config.firstUnitPosts s.draws 1 then [p, q] else [q, p]) := rfl

/-- Settles O32. -/
theorem postingTakesTheNextStamp : Obligations.PostingTakesTheNextStamp := by
  refine ⟨fun p s => ?_, fun p q s => ⟨s.draws + 1, ?_⟩⟩
  · intro entry
    unfold State.post EventBlock.post
    rw [List.drop_one, satInc_byte]
  · rw [postBoth_singles]
    split
    · exact .inl rfl
    · exact .inr rfl

/-! ### Causes (R109 to R111, R117) -/

/-- The postings that are not FALLBACK entries, and those that are, keep their orders in a merge. -/
theorem eitherOrder_fallback {own falls : List Posting} (s : State) (others : ∀ x ∈ own, x.code ≠ .fallback)
    (fallbacks : ∀ y ∈ falls, y.code = .fallback) :
    (s.eitherOrder own falls).filter (fun q => decide (q.code ≠ .fallback)) = own ∧
    (s.eitherOrder own falls).filter (fun q => decide (q.code = .fallback)) = falls := by
  have merged := interleave_filter (fun q => decide (q.code ≠ .fallback)) (Config.firstUnitPosts s.draws)
    (own.length + falls.length) own falls (fun x member => decide_eq_true (others x member))
    (fun y member => decide_eq_false (not_not_intro (fallbacks y member)))
  refine ⟨merged.1, Eq.trans (List.filter_congr fun q _ => ?_) merged.2⟩
  rw [← decide_not, decide_eq_decide, not_not]

theorem enters_eq (s : State) (g : Group) : s.enters g = Claims.entersFallback s.groups[g] := by
  unfold State.enters Claims.entersFallback
  cases s.groups[g].state <;> rfl

theorem causePostings_flat (p : Group → Bool) (s : State) (cause : Cause) :
    (allGroups.filter p).flatMap (causePostings s cause) =
      (allGroups.filter fun g => p g && decide (s.groups[g].state ≠ .stopped)).map fun g =>
        { code := .fallback, subject := .group g, detail := .cause cause (decide (s.groups[g].state = .fallback)) } := by
  induction allGroups with
  | nil => rfl
  | cons g gs rest =>
    by_cases named : p g = true
    · rw [List.filter_cons_of_pos named, List.flatMap_cons, rest]
      by_cases stopped : s.groups[g].state = .stopped
      · rw [List.filter_cons_of_neg (by
          rw [Bool.and_eq_true]
          exact fun both => of_decide_eq_true both.2 stopped)]
        rw [causePostings, if_pos stopped]
        rfl
      · rw [List.filter_cons_of_pos (by rw [named, decide_eq_true stopped]; rfl), List.map_cons]
        rw [causePostings, if_neg stopped]
        rfl
    · rw [List.filter_cons_of_neg named, rest, List.filter_cons_of_neg (by rw [Bool.and_eq_true]; exact fun both => named both.1)]

theorem Channel.enterFallback_eq (c : Channel) : c.enterFallback = Claims.fellBack c := by
  unfold Channel.enterFallback Claims.fellBack
  cases c.config.action <;> rfl

/-- R117, R39 and R140: the groups take a cause at a moment with the postings of another unit. -/
theorem causeTaken_of_takeCauses {p : Group → Bool} {cause : Cause} {own : List Posting} {s u : State}
    (groups : u.groups = s.groups) (chans : u.chans = s.chans) (cycle : u.cycle = s.cycle)
    (events : u.events = s.events) (others : ∀ x ∈ own, x.code ≠ .fallback) :
    Claims.causeTaken p cause own s ((u.takeCauses p cause).1.postBoth own (u.takeCauses p cause).2) := by
  obtain ⟨same, group, chan, posts⟩ := State.takeCauses_spec p cause u
  have fallbacks : ∀ y ∈ (u.takeCauses p cause).2, y.code = .fallback := by
    rw [posts, causePostings_flat]
    intro y member
    obtain ⟨g, -, rfl⟩ := List.mem_map.mp member
    rfl
  have posted : (u.takeCauses p cause).1.postBoth own (u.takeCauses p cause).2 =
      { (u.takeCauses p cause).1 with
        draws := (u.takeCauses p cause).1.draws + 1,
        events := ((u.takeCauses p cause).1.eitherOrder own (u.takeCauses p cause).2).foldl
          (fun b q => b.post (u.takeCauses p cause).1.cycle.number q) (u.takeCauses p cause).1.events } := by
    unfold State.postBoth
    rw [State.postAll_events]
    rfl
  have sameCycle : (u.takeCauses p cause).1.cycle = s.cycle := by simpa using cycle
  have sameEvents : (u.takeCauses p cause).1.events = s.events := by simpa using events
  obtain ⟨ownOrder, fallOrder⟩ := eitherOrder_fallback (u.takeCauses p cause).1 others fallbacks
  rw [posted]
  refine ⟨fun g => ?_, fun d => ?_, (u.takeCauses p cause).1.eitherOrder own (u.takeCauses p cause).2, ?_, ownOrder, ?_⟩
  · refine (group g).trans (if_congr ?_ ?_ ?_)
    · rw [Bool.and_eq_true, enters_eq, groups]
    · rw [groups]
      rfl
    · rw [groups]
  · refine (chan d).trans (if_congr ?_ ?_ ?_)
    · simp only [Bool.and_eq_true, enters_eq, groups, chans]
    · rw [chans]
      exact Channel.enterFallback_eq _
    · rw [chans]
  · rw [sameCycle, sameEvents]
  · rw [fallOrder, posts, causePostings_flat, groups]

/-! ### The quiet timer (R37, R63) -/

/-- A state that took causes, but for its groups, channels, entries and draws. -/
theorem takeCauses_eq (p : Group → Bool) (cause : Cause) (own : List Posting) (u : State) :
    (u.takeCauses p cause).1.postBoth own (u.takeCauses p cause).2 = { u with
      groups := ((u.takeCauses p cause).1.postBoth own (u.takeCauses p cause).2).groups,
      chans := ((u.takeCauses p cause).1.postBoth own (u.takeCauses p cause).2).chans,
      events := ((u.takeCauses p cause).1.postBoth own (u.takeCauses p cause).2).events,
      draws := ((u.takeCauses p cause).1.postBoth own (u.takeCauses p cause).2).draws } := by
  have same := (State.takeCauses_spec p cause u).1
  generalize (u.takeCauses p cause).1 = v at same ⊢
  generalize v.groups = groups, v.chans = chans at same
  unfold State.postBoth
  rw [State.postAll_events, same]
  rfl

theorem expiryPostsLineQuietAndTrips : Claims.ExpiryPostsLineQuietAndTrips := by
  intro dt s high running due
  have isDue : (s.after dt).quietDue = true := by
    unfold State.quietDue
    rw [Bool.and_eq_true, decide_eq_true_eq, decide_eq_true_eq]
    exact ⟨running, due⟩
  refine ⟨(s.after dt).quietExpires, ?_, takeCauses_eq _ _ _ _, causeTaken_of_takeCauses rfl rfl rfl rfl ?_⟩
  · show execLineQuiet dt s = _
    unfold execLineQuiet
    rw [live_high high]
    exact if_pos isDue
  · intro x member
    rw [List.mem_singleton.mp member]
    nofun

theorem expiryThatMeetsAPassComesAfterIt : Claims.ExpiryThatMeetsAPassComesAfterIt := by
  intro dt limit s high met early
  have notDue : ¬(s.after dt).quietDue = true := by
    unfold State.quietDue
    rw [Bool.and_eq_true, decide_eq_true_eq, decide_eq_true_eq]
    exact fun ⟨running, due⟩ => absurd due (not_le.mpr (early running))
  have meets : (s.after dt).metNow = some limit := by
    unfold State.metNow
    rw [show (s.after dt).up.met = s.up.met from rfl, met]
    exact if_pos rfl
  refine ⟨(s.after dt).metExpires limit, ?_, takeCauses_eq _ _ _ _, causeTaken_of_takeCauses rfl rfl rfl rfl ?_⟩
  · show execLineQuiet dt s = _
    unfold execLineQuiet
    rw [live_high high, if_neg notDue, meets]
  · intro x member
    rcases List.mem_pair.mp member with rfl | rfl <;> nofun

/-- Settles O22. -/
theorem quietExpiryTripsItsGroups : Obligations.QuietExpiryTripsItsGroups :=
  ⟨expiryPostsLineQuietAndTrips, expiryThatMeetsAPassComesAfterIt⟩

/-! ### The scan of the sampler (R133, R136, R137, R139, R140) -/

/-- Writes the record of one analog input. -/
def State.withInput (a : AnIn) (r : Analog) (s : State) : State :=
  { s with sampler := { s.sampler with inputs := s.sampler.inputs.set a r } }

section
variable {s : State} {a : AnIn} {v : BitVec 10} {r : Analog} (read : s.sampler.inputs[a] = r)
include read

theorem State.limitCheck_within (within : r.outsideSide v = none) :
    s.limitCheck a v = s.withInput a { r with outside := false } := by
  subst read
  unfold State.limitCheck
  dsimp only
  rw [within]
  rfl

theorem State.limitCheck_known {side : Detail} (outside : r.outsideSide v = some side) (known : r.outside = true) :
    s.limitCheck a v = s := by
  subst read
  unfold State.limitCheck
  dsimp only
  rw [outside]
  exact if_pos known

/-- R139 and R140: a new breach. -/
theorem State.limitCheck_breach {side : Detail} (outside : r.outsideSide v = some side) (new : r.outside = false) :
    s.limitCheck a v =
      (((s.withInput a { r with outside := true }).takeCauses (GroupSet.has r.trip) .limit).1.postBoth
        [{ code := .limit, subject := .analog a, detail := side }]
        ((s.withInput a { r with outside := true }).takeCauses (GroupSet.has r.trip) .limit).2) := by
  subst read
  unfold State.limitCheck
  dsimp only
  rw [outside]
  exact if_neg (Bool.eq_false_iff.mp new)

end

theorem outsideSide_eq (a : Analog) (v : BitVec 10) : a.outsideSide v =
    if v < a.low ∨ a.high < v then some (if v < a.low then .limitLow else .limitHigh) else none := by
  unfold Analog.outsideSide
  by_cases low : v < a.low
  · rw [if_pos low, if_pos (.inl low), if_pos low]
  · rw [if_neg low, if_neg low]
    exact if_congr (or_iff_right low).symm rfl rfl

/-- R137: what the conversion of an entry leads to. -/
theorem nextStep_eq (sm : Sampler) (pos : Fin 4) (now : Time) (few : sm.list.length ≤ 4) :
    sm.nextStep pos now =
      if pos.val + 1 < sm.list.length then .converting (Fin.ofNat 4 (pos.val + 1)) now else sm.mode.idleScan := by
  unfold Sampler.nextStep
  by_cases more : pos.val + 1 < sm.list.length
  · have inside : pos.val + 1 < 4 := by omega
    rw [dif_pos inside, if_pos more, if_pos more]
    exact congrArg (Scan.converting · now) (Fin.ext (Nat.mod_eq_of_lt inside).symm)
  · rw [if_neg more]
    split <;> rfl

/-- Settles O31. -/
theorem scanConvertsItsListAndChecksLimits : Obligations.ScanConvertsItsListAndChecksLimits := by
  intro dt s high
  refine ⟨fun since settling long => ?_, fun value pos since a converting entry few long => ?_⟩
  · show execSettlingEnd dt s = _
    unfold execSettlingEnd
    rw [live_high high, show (s.after dt).sampler = s.sampler from rfl, settling]
    exact if_pos long
  · intro r out
    let stored : State := { s.after dt with sampler := { s.sampler with
      inputs := s.sampler.inputs.set a (r.store value),
      scan := if pos.val + 1 < s.sampler.list.length then .converting (Fin.ofNat 4 (pos.val + 1)) (s.now + dt)
        else s.sampler.mode.idleScan } }
    have ran : exec (.conversionEnd dt value) s = .next (stored.limitCheck a value) := by
      show execConversionEnd dt value s = _
      unfold execConversionEnd
      rw [live_high high, show (s.after dt).sampler = s.sampler from rfl, converting]
      dsimp only
      rw [entry]
      refine (if_pos long).trans (congrArg Host.Outcome.next ?_)
      unfold State.convert
      dsimp only
      rw [show (s.after dt).sampler.nextStep pos (s.after dt).now = _ from nextStep_eq s.sampler pos (s.now + dt) few]
      rfl
    have side := outsideSide_eq (r.store value) value
    have read : stored.sampler.inputs[a] = r.store value := by
      show (s.sampler.inputs.set a (r.store value))[a] = _
      rw [Vector.read_set, if_pos rfl]
    have twice (x : Analog) : (s.sampler.inputs.set a (r.store value)).set a x = s.sampler.inputs.set a x :=
      Vector.set_set ..
    refine ⟨_, ran, ?_, fun isOut new => ?_, fun quiet => ?_⟩
    · by_cases isOut : value < r.low ∨ r.high < value
      · by_cases known : r.outside = true
        · rw [State.limitCheck_known read (side.trans (if_pos isOut)) known,
          show out = r.outside from (decide_eq_true isOut).trans known.symm]
          rfl
        · rw [State.limitCheck_breach read (side.trans (if_pos isOut)) (Bool.eq_false_iff.mpr known), takeCauses_eq,
            show out = true from decide_eq_true isOut]
          unfold State.withInput
          dsimp only [stored]
          rw [twice]
          rfl
      · rw [State.limitCheck_within read (side.trans (if_neg isOut)),
          show out = false from decide_eq_false isOut]
        unfold State.withInput
        dsimp only [stored]
        rw [twice]
        rfl
    · rw [State.limitCheck_breach read (side.trans (if_pos (of_decide_eq_true isOut))) new]
      refine causeTaken_of_takeCauses rfl rfl rfl rfl fun x member => ?_
      rw [List.mem_singleton.mp member]
      nofun
    · by_cases isOut : value < r.low ∨ r.high < value
      · have known : r.outside = true := quiet.resolve_left fun none => absurd isOut (of_decide_eq_false none)
        rw [State.limitCheck_known read (side.trans (if_pos isOut)) known]
        exact ⟨rfl, rfl, rfl, rfl⟩
      · rw [State.limitCheck_within read (side.trans (if_neg isOut))]
        exact ⟨rfl, rfl, rfl, rfl⟩

/-! ### Drive pins (R89, R93 to R98) -/

theorem drivePinTakesItsFirstCondition : Claims.DrivePinTakesItsFirstCondition := by
  intro d s c active idle
  have isActive : pinOf c.config.polarity true = active := by
    dsimp only [active]
    cases c.config.polarity <;> rfl
  have isIdle : pinOf c.config.polarity false = idle := by
    dsimp only [idle]
    cases c.config.polarity <;> rfl
  refine ⟨fun low => if_pos low, fun high => ?_⟩
  have pin : s.drivePin d = pinOf c.config.polarity (c.shown s.groups) := if_neg (by rw [high]; nofun)
  refine ⟨fun stopped => ?_, fun running => ?_⟩
  · rw [pin, Channel.shown, if_pos stopped, isIdle]
  · refine ⟨fun override => ?_, fun override => ?_, fun override => ?_⟩
    · rw [pin, show c.shown s.groups = false by simp only [Channel.shown, if_neg running, override]]
      exact isIdle
    · rw [pin, show c.shown s.groups = true by simp only [Channel.shown, if_neg running, override]]
      exact isActive
    · rw [pin, show c.shown s.groups = c.modeOutput by simp only [Channel.shown, if_neg running, override]]
      refine ⟨fun mode => ?_, fun mode => ?_, fun mode => ?_, fun mode => ?_⟩
      · rw [show c.modeOutput = false by simp only [Channel.modeOutput, mode]]
        exact isIdle
      · rw [show c.modeOutput = c.latch by simp only [Channel.modeOutput, mode], ← isActive, ← isIdle]
        cases c.latch <;> rfl
      · rw [show c.modeOutput = c.phase by simp only [Channel.modeOutput, mode], ← isActive, ← isIdle]
        cases c.phase <;> rfl
      · have shots : c.modeOutput = c.shot.isActive := by
          rcases mode with mode | mode <;> simp only [Channel.modeOutput, mode]
        rw [shots]
        refine ⟨fun ⟨delay, width, since, shot⟩ => ?_, fun shot => ?_⟩
        · rw [shot]
          exact isActive
        · rcases shot with shot | ⟨delay, width, since, shot⟩ <;> rw [shot] <;> exact isIdle

section
variable {c : Channel} (off : c.config.mode = .off)
include off

theorem Channel.oneshotOn_off (src : ChanTrigger) (groups : Vector GroupRec 4) (now : Time) :
    c.oneshotOn src groups now = (c, false) := if_neg fun taken => by
  rw [off] at taken
  cases taken.1

theorem Channel.atCycleStart_off (live : Channel) (groups : Vector GroupRec 4) (now : Time) :
    c.atCycleStart live groups now = (c, false) := by
  unfold Channel.atCycleStart
  rw [off]
  exact ite_self _

/-- R93: no pass over the channels reaches a channel in mode OFF that has no effect of its own. -/
theorem State.drive_off {own : Chan → Channel → Channel × Bool} {s : State} {d : Chan} (here : s.chans[d] = c)
    (still : own d c = (c, false)) : (s.drive own).chans[d] = c := by
  rw [State.drive_get, here, still]
  exact Channel.led_of_not_follow (by rw [off]; nofun)

end

theorem event_refused {dt : Time} {s : State} {p d : State → Bool} {f : State → State} (high : s.inReset = false)
    (away : p (s.after dt) = false) : event dt s p d f = .refused .outOfPlace := by
  unfold event
  rw [live_high high, away]
  rfl

theorem offChannelNeitherTakesNorMakesTriggers : Claims.OffChannelNeitherTakesNorMakesTriggers := by
  intro d s off high c
  have notWidth : decide (c.config.mode = .width) = false := by
    rw [show c.config.mode = .off from off]
    rfl
  have noShots : c.config.mode.hasShots = false := by
    rw [show c.config.mode = .off from off]
    rfl
  have noFollow : decide (c.config.mode = .follow) = false := by
    rw [show c.config.mode = .off from off]
    rfl
  refine ⟨fun k => State.drive_off off rfl (Channel.oneshotOn_off off _ _ _), fun g => State.drive_off off rfl ?_,
    fun live => State.drive_off off rfl (Channel.atCycleStart_off off _ _ _), fun now e live src => ⟨?_, ?_, ?_⟩,
    fun dt => ⟨?_, ?_, ?_, ?_⟩⟩
  · show (if c.config.group = g then c.oneshotOn .commit s.groups s.now else (c, false)) = _
    rw [Channel.oneshotOn_off off]
    exact ite_self _
  · rw [Channel.atCycleStart_off off]
  · rw [Channel.oneshotOn_off off]
  · unfold Channel.follows
    rw [noFollow]
    rfl
  · show execWidthPhaseStart dt d s = _
    refine event_refused high ?_
    show (decide (c.config.mode = .width) && _ && _) = false
    rw [notWidth]
    rfl
  · show execWidthPhaseEnd dt d s = _
    refine event_refused high ?_
    show (decide (c.config.mode = .width) && _ && _) = false
    rw [notWidth]
    rfl
  · show execShotDelayEnd dt d s = _
    refine event_refused high ?_
    show (c.config.mode.hasShots && _) = false
    rw [noShots]
    rfl
  · show execShotEnd dt d s = _
    refine event_refused high ?_
    show (c.config.mode.hasShots && _) = false
    rw [noShots]
    rfl

/-- Settles O34. -/
theorem drivePinsFollowTheirChannels : Obligations.DrivePinsFollowTheirChannels :=
  ⟨drivePinTakesItsFirstCondition, offChannelNeitherTakesNorMakesTriggers⟩

end Sys2Proof.Machine
end

section
/-!
PROOFS. Capture inputs: seen edges, the filter of a pin, and a measurement too long (R119 to R127, R129).
-/

namespace Sys2Proof.Machine

/-! ### A seen edge (R119, R122, R123, R125, R127) -/

section
variable (k : CapIn) (s : State)

/-- An input's record is written, and nothing else. -/
def State.sees (c : Capture) : State := { s with caps := s.caps.set k c }

/-- R127: an input's record is written and a capture event reaches the channels and the sampler. -/
def State.seesEvent (c : Capture) : State :=
  { (s.sees k c).triggerCapture k with
    sampler := Claims.triggered (.capture k) s.now ((s.sees k c).triggerCapture k).sampler }

theorem State.captureEvent_eq (c : Capture) : (s.sees k c).captureEvent k = s.seesEvent k c := by
  have now : ((s.sees k c).triggerCapture k).now = s.now := (State.triggerCapture_frame k (s.sees k c)).1
  unfold State.captureEvent State.seesEvent
  rw [State.samplerEvent_eq, Sampler.atEvent_eq]
  generalize (s.sees k c).triggerCapture k = t at now ⊢
  exact congrArg (fun n => { t with sampler := Claims.triggered (.capture k) n t.sampler }) now

end

theorem edgeTo_eq (l : Level) : edgeTo l = if l = .high then .rising else .falling := by cases l <;> rfl

/-- R119: the record that an edge leaves, and whether it is a capture event. -/
theorem State.seeEdge_eq (k : CapIn) (l : Level) (s : State) {c : Capture} {e : Edge} {seen : Capture × Bool}
    (input : c = { s.caps[k] with filtered := some l, change := none }) (edge : e = if l = .high then .rising else .falling)
    (sees : c.see e s.cycle.tick s.now = seen) :
    s.seeEdge k l = if seen.2 then s.seesEvent k seen.1 else s.sees k seen.1 := by
  subst sees input edge
  unfold State.seeEdge
  rw [edgeTo_eq]
  exact if_congr Iff.rfl (State.captureEvent_eq k s _) rfl

/-- Settles O29: case by case, as the mode and the state of the measurement say. -/
theorem seenEdgeMeasures : Obligations.SeenEdgeMeasures := by
  intro k l s e c seen event opens
  have eq {c' : Capture × Bool} (sees : c.see e s.cycle.tick s.now = c') :
      s.seeEdge k l = if c'.2 then event c'.1 else seen c'.1 := State.seeEdge_eq k l s rfl rfl sees
  clear_value c e
  obtain ⟨pin, mode, edge, filter, filtered, change, measure, running, value, status, seq, configuredAt⟩ := c
  cases mode with
  | off => exact eq rfl
  | count =>
    by_cases rising : e = .rising
    · exact (eq (if_pos rising)).trans (if_pos rising).symm
    · exact (eq (if_neg rising)).trans (if_neg rising).symm
  | period =>
    by_cases active : edge = some e
    · cases measure with
      | unarmed => exact (eq (if_pos active)).trans (congrArg seen (if_pos active).symm)
      | armed => exact (eq (if_pos active)).trans (if_pos active).symm
      | _ => exact eq (if_pos active)
    · cases measure with
      | unarmed => exact (eq (if_neg active)).trans (congrArg seen (if_neg active).symm)
      | armed => exact (eq (if_neg active)).trans (if_neg active).symm
      | _ => exact eq (if_neg active)
  | high => cases e <;> cases measure <;> exact eq rfl
  | low => cases e <;> cases measure <;> exact eq rfl

/-! ### The filter of a pin, and a measurement too long (R120, R124, R129) -/

theorem width_eq (f : Filter) : f.width = match f with
    | .f0 => 0
    | .f2 => 2
    | .f4 => 4
    | .f8 => 8 := by cases f <;> rfl

theorem opened_iff (m : Measure) (opened : Time) :
    m.opened = some opened ↔ m = .armed opened ∨ m = .timing opened := by
  cases m <;> simp [Measure.opened]

theorem State.not_overflowMissed {k : CapIn} {s : State}
    (short : ∀ opened, s.caps[k].measure = .armed opened ∨ s.caps[k].measure = .timing opened →
      s.now - opened ≤ 65535 * s.cycle.tick.length) : s.overflowMissed k = false := by
  unfold State.overflowMissed
  rw [Option.any_eq_false]
  intro opened timed
  exact decide_eq_false (not_lt.mpr (short opened ((opened_iff _ _).mp timed)))

theorem State.not_edgeDue {k : CapIn} {s : State} (early : ∀ p, s.caps[k].change = some p →
    s.now - p.since < s.caps[k].filter.width * s.cycle.tick.length) : s.edgeDue k = false := by
  unfold State.edgeDue
  rw [Option.any_eq_false]
  intro p pending
  exact decide_eq_false (not_le.mpr (early p pending))

theorem capturePinChangeIsFiltered : Claims.CapturePinChangeIsFiltered := by
  intro dt k l s high other c becomes early short fresh
  have ran : exec (.capturePinChange dt k l) s = .next ((s.after dt).pinChange k l) := by
    show execCapturePinChange dt k l s = _
    unfold execCapturePinChange
    have low : ¬(s.after dt).inReset = true := by
      rw [show (s.after dt).inReset = s.inReset from rfl, high]
      nofun
    have due : ¬(s.after dt).captureOverdue k = true := by
      unfold State.captureOverdue
      rw [State.not_edgeDue, State.not_overflowMissed short]
      · nofun
      · intro p pending
        rw [width_eq]
        exact early p pending
    dsimp only
    rw [if_neg low, if_neg (show ¬(s.after dt).caps[k].pin = l from other), if_neg due]
  have change : (s.after dt).pinChange k l =
      if c.mode = .off then (s.after dt).setCap k c
      else if fresh then (s.after dt).setCap k { c with filtered := some l, change := none }
      else if c.filtered = some l then (s.after dt).setCap k { c with change := none }
      else if c.filter = .f0 then ((s.after dt).setCap k c).seeEdge k l
      else (s.after dt).setCap k { c with change := some { level := l, since := s.now + dt } } := rfl
  refine ⟨fun off => ?_, fun on isFresh => ?_, fun on stale back => ?_, fun on stale away filtered => ?_,
    fun on stale away direct => ?_⟩
  · rw [ran, change, if_pos off]
    rfl
  · rw [ran, change, if_neg on, if_pos isFresh]
    rfl
  · rw [ran, change, if_neg on, if_neg stale, if_pos back]
    rfl
  · rw [ran, change, if_neg on, if_neg stale, if_neg away, if_neg filtered]
    rfl
  · rw [ran, change, if_neg on, if_neg stale, if_neg away, if_pos direct]
    rfl

theorem heldChangeIsSeenAndLongMeasureOverflows : Claims.HeldChangeIsSeenAndLongMeasureOverflows := by
  intro dt k s high c later
  refine ⟨fun p pending held short => ?_, fun opened timed long => ?_⟩
  · have due : (s.after dt).edgeDue k = true := by
      unfold State.edgeDue
      rw [show (s.after dt).caps[k].change = some p from pending]
      refine decide_eq_true ?_
      rw [width_eq]
      exact held
    have missed : (s.after dt).overflowMissed k = false := State.not_overflowMissed short
    have sees : (s.after dt).pendingEdge k = later.seeEdge k p.level := by
      unfold State.pendingEdge
      rw [show (s.after dt).caps[k].change = some p from pending]
      rfl
    have some_ : ¬(s.after dt).caps[k].change.isNone = true := by
      rw [show (s.after dt).caps[k].change = some p from pending]
      nofun
    show execCaptureEdge dt k s = _
    unfold execCaptureEdge
    rw [live_high high, if_neg some_, due, missed, sees]
    rfl
  · have measured : (s.after dt).caps[k].measure.opened = some opened :=
      (opened_iff _ _).mpr (timed.imp And.right And.right)
    have rests : c.mode.restMeasure = if c.mode = .period then .unarmed else .waiting := by
      rcases timed with ⟨mode, -⟩ | ⟨mode | mode, -⟩ <;> rw [mode] <;> rfl
    show execCaptureOverflow dt k s = _
    unfold execCaptureOverflow
    refine (event_run high ?_ ?_).trans ?_
    · rw [measured]
      rfl
    · rw [measured]
      exact decide_eq_true long
    · rw [← rests]
      rfl

/-- Settles O30. -/
theorem capturePinsAreFilteredAndTimed : Obligations.CapturePinsAreFilteredAndTimed :=
  ⟨capturePinChangeIsFiltered, heldChangeIsSeenAndLongMeasureOverflows⟩

end Sys2Proof.Machine
end

section
/-!
PROOFS. Phases, shots, their triggers and leader ends (R95 to R99, R101, R102).
-/

namespace Sys2Proof.Machine

/-! ### A pass over the channels that starts at one of them -/

theorem takeChans_lt : ∀ d e : Chan, e ∈ allChans.take d.val → e < d := by decide

section
variable {d : Chan} {own : Channel → Channel × Bool} {s : State}

theorem onlyOn_self (c : Channel) : onlyOn d own d c = own c := if_pos rfl

theorem onlyOn_other {e : Chan} (other : e ≠ d) (c : Channel) : onlyOn d own e c = (c, false) := if_neg other

/-- R101: a pass makes no leader end before its one channel, nor where that channel's output does not end. -/
theorem sweepEnds_onlyOn_nil {x : Chan} (quiet : ¬(d < x ∧ (own s.chans[d]).2 = true)) :
    sweepEnds s.now s.groups (onlyOn d own) s.chans (allChans.take x.val) = [] := by
  have none := sweepEnds_ind s.now s.groups (onlyOn d own) (fun _ => False) s.chans (allChans.take x.val)
    (takeChans_nodup x) (fun e before ends => ?_) (fun e _ E deaf follows => ?_)
  · exact List.eq_nil_iff_forall_not_mem.mpr none
  · by_cases here : e = d
    · subst here
      rw [onlyOn_self] at ends
      exact quiet ⟨takeChans_lt x e before, ends⟩
    · rw [onlyOn_other here] at ends
      cases ends
  · rw [List.eq_nil_iff_forall_not_mem.mpr deaf] at follows
    unfold Channel.follows at follows
    cases leader : (onlyOn d own e s.chans[e]).1.config.leader <;> rw [leader] at follows <;>
      simp at follows

theorem State.drive_onlyOn_self : (s.drive (onlyOn d own)).chans[d] = (own s.chans[d]).1 := by
  rw [State.drive_get, sweepEnds_onlyOn_nil (fun later => absurd later.1 (lt_irrefl d)), Channel.led_nil, onlyOn_self]

theorem State.drive_onlyOn_deaf {x : Chan} (other : x ≠ d) (deaf : s.chans[x].config.mode ≠ .follow) :
    (s.drive (onlyOn d own)).chans[x] = s.chans[x] := by
  rw [State.drive_get, onlyOn_other other]
  exact Channel.led_of_not_follow deaf

theorem State.drive_onlyOn_quiet {x : Chan} (other : x ≠ d) (quiet : (own s.chans[d]).2 = false) :
    (s.drive (onlyOn d own)).chans[x] = s.chans[x] := by
  rw [State.drive_get, onlyOn_other other,
    sweepEnds_onlyOn_nil (fun ends => by rw [quiet] at ends; cases ends.2), Channel.led_nil]

/-- R101: where no channel follows the one, the end of its output reaches none. -/
theorem State.drive_onlyOn_alone {x : Chan} (other : x ≠ d)
    (alone : ∀ f : Chan, s.chans[f].config.mode = .follow → s.chans[f].config.leader ≠ some d) :
    (s.drive (onlyOn d own)).chans[x] = s.chans[x] := by
  have notLed {E : List Chan} (ends : ∀ e ∈ E, e = d) {f : Chan} : s.chans[f].follows E = false := by
    unfold Channel.follows
    rw [Bool.and_eq_false_imp]
    intro mode
    cases leader : s.chans[f].config.leader with
    | none => rfl
    | some l =>
      refine Bool.eq_false_iff.mpr fun led => alone f (of_decide_eq_true mode) ?_
      rw [leader, ends l (List.contains_iff_mem.mp led)]
  have ends := sweepEnds_ind s.now s.groups (onlyOn d own) (fun e => e = d) s.chans (allChans.take x.val)
    (takeChans_nodup x) (fun e _ ends => by_contra fun here => ?_) (fun e _ E ends follows => by_contra fun here => ?_)
  · rw [State.drive_get, onlyOn_other other]
    unfold Channel.led
    rw [notLed ends]
    rfl
  · rw [onlyOn_other here] at ends
    cases ends
  · rw [onlyOn_other here, notLed ends] at follows
    cases follows

/-- R101 and R102: a follower that may take the end starts or restarts its shot. -/
theorem State.drive_onlyOn_follower {f : Chan} (later : d < f) (ends : (own s.chans[d]).2 = true)
    (mode : s.chans[f].config.mode = .follow) (leader : s.chans[f].config.leader = some d)
    (running : s.groups[s.chans[f].config.group].state ≠ .stopped) (free : s.chans[f].override = .none) :
    (s.drive (onlyOn d own)).chans[f] = { s.chans[f] with shot := Shot.start s.chans[f].active s.now } := by
  have ended := sweepEnds_own s.now s.groups (onlyOn d own) s.chans d f later (by rw [onlyOn_self]; exact ends)
  rw [State.drive_get, onlyOn_other (ne_of_gt later)]
  unfold Channel.led
  have led : s.chans[f].follows (sweepEnds s.now s.groups (onlyOn d own) s.chans (allChans.take f.val)) = true := by
    unfold Channel.follows
    rw [mode, leader]
    exact List.contains_iff_mem.mpr ended
  rw [led, (Channel.takes_iff s.groups s.chans[f]).mpr ⟨running, free⟩]
  rfl

end

theorem Shot.start_eq (a : Active) (now : Time) : Shot.start a now = Claims.startedShot a now := by
  unfold Shot.start Claims.startedShot
  split
  · rfl
  · rename_i noDelay
    rw [not_not.mp noDelay]

/-! ### WIDTH phases (R95, R96) -/

/-- Settles O27. -/
theorem widthPhaseFollowsTheCount : Obligations.WidthPhaseFollowsTheCount := by
  intro dt d s high c count first last mode
  have isWidth : decide (c.config.mode = .width) = true := decide_eq_true mode
  have counted : (s.after dt).count = count := by
    unfold State.count
    rw [show (s.after dt).inReset = s.inReset from rfl, high]
    rfl
  refine ⟨fun running idle from_ below inside => ?_, fun active reached inside => ?_⟩
  · show execWidthPhaseStart dt d s = _
    refine event_run high ?_ ?_
    · show (decide (c.config.mode = .width) && decide (s.groups[c.config.group].state ≠ .stopped) && !c.phase) = true
      rw [isWidth, decide_eq_true running, idle]
      rfl
    · show c.phaseOpens (s.after dt).count s.cycle.period = true
      unfold Channel.phaseOpens
      rw [counted, decide_eq_true from_, decide_eq_true below, decide_eq_true inside]
      rfl
  · have ran : exec (.widthPhaseEnd dt d) s = .next ((s.after dt).drive (onlyOn d Channel.endPhase)) := by
      show execWidthPhaseEnd dt d s = _
      refine event_run high ?_ ?_
      · show (decide (c.config.mode = .width) && c.phase && decide (last < s.cycle.period)) = true
        rw [isWidth, active, decide_eq_true inside]
        rfl
      · rw [counted]
        exact decide_eq_true reached
    refine ⟨_, ran, State.drive_eq _ _, State.drive_onlyOn_self, fun f other deaf => State.drive_onlyOn_deaf other deaf,
      fun hidden f other => ?_, fun f later free mode leader running own => ?_⟩
    · rcases hidden with hidden | alone
      · exact State.drive_onlyOn_quiet other (decide_eq_false hidden)
      · exact State.drive_onlyOn_alone other alone
    · rw [← Shot.start_eq]
      exact State.drive_onlyOn_follower later (decide_eq_true free) mode leader running own

/-! ### Shots (R97 to R99) -/

theorem afterDelay_waiting (delay width : Value12) (since now : Time) :
    (Shot.waiting delay width since).afterDelay now = if width = 0 then .idle else .active delay width now := by
  unfold Shot.afterDelay
  exact ite_not ..

theorem shotRunsItsDelayAndWidth : Claims.ShotRunsItsDelayAndWidth := by
  intro dt d delay width since s high c later passed mode
  have shots : c.config.mode.hasShots = true := by
    rcases mode with mode | mode <;> rw [mode] <;> rfl
  refine ⟨fun waiting long => ?_, fun active long => ?_⟩
  · have shot : (s.after dt).chans[d].shot = .waiting delay width since := waiting
    show execShotDelayEnd dt d s = _
    refine (event_run high ?_ ?_).trans ?_
    · show (c.config.mode.hasShots && (s.after dt).chans[d].shot.isWaiting) = true
      rw [shots, shot]
      rfl
    · rw [shot]
      exact decide_eq_true long
    · rw [shot, afterDelay_waiting]
      rfl
  · have shot : (s.after dt).chans[d].shot = .active delay width since := active
    have ran : exec (.shotEnd dt d) s = .next ((s.after dt).drive (onlyOn d Channel.endShot)) := by
      show execShotEnd dt d s = _
      refine event_run high ?_ ?_
      · show (c.config.mode.hasShots && (s.after dt).chans[d].shot.isActive) = true
        rw [shots, shot]
        rfl
      · rw [shot]
        exact decide_eq_true long
    refine ⟨_, ran, State.drive_eq _ _, State.drive_onlyOn_self, fun f other deaf => State.drive_onlyOn_deaf other deaf,
      fun hidden f other => State.drive_onlyOn_quiet other (decide_eq_false hidden),
      fun f later free mode leader running own => ?_⟩
    rw [← Shot.start_eq]
    exact State.drive_onlyOn_follower later (decide_eq_true free) mode leader running own

theorem captureTriggerStartsAShot : Claims.CaptureTriggerStartsAShot := by
  intro k d s mode trigger c
  have own : (s.triggerCapture k).chans[d] = (c.oneshotOn (.capture k) s.groups s.now).1 := by
    have config : (c.oneshotOn (.capture k) s.groups s.now).1.config = c.config := by
      obtain ⟨shot, ignored, same⟩ := Channel.oneshotOn_eq (.capture k) s.groups s.now c
      rw [same]
    unfold State.triggerCapture
    rw [State.drive_get]
    exact Channel.led_of_not_follow (by rw [config, mode]; nofun)
  rw [own]
  by_cases barred : s.groups[c.config.group].state = .stopped ∨ c.override ≠ .none
  · rw [if_pos barred, Channel.oneshotOn_barred _ _ _ _ barred]
  · rw [if_neg barred]
    obtain ⟨running, free⟩ := not_or.mp barred
    rw [Channel.oneshotOn_free _ _ _ _ mode trigger running (not_not.mp free)]
    unfold Channel.triggered
    rw [Shot.start_eq]
    split <;> rfl

/-- Settles O28. -/
theorem shotsAndTheirTriggers : Obligations.ShotsAndTheirTriggers :=
  ⟨shotRunsItsDelayAndWidth, captureTriggerStartsAShot⟩

end Sys2Proof.Machine
end

section
/-!
PROOFS. A commit request: its records and its triggers (R66, R67, R97 to R102, R114).
-/

namespace Sys2Proof.Machine

theorem Shot.isActive_eq (sh : Shot) : sh.isActive = Claims.shotActive sh := by
  cases sh <;> rfl

theorem Channel.triggered_eq (record : Active) (now : Time) (c : Channel) :
    c.triggered record now = Claims.shotTriggered record now c := by
  unfold Channel.triggered Claims.shotTriggered
  rw [Shot.start_eq]

/-- R99 and R101: where a trigger that is taken ends the output of a running shot. -/
theorem Channel.oneshotOn_ends (src : ChanTrigger) (gs : Vector GroupRec 4) (now : Time) (c : Channel)
    (mode : c.config.mode = .oneshot) (trigger : c.config.trigger = some src)
    (running : gs[c.config.group].state ≠ .stopped) (free : c.override = .none) :
    (c.oneshotOn src gs now).2 = Claims.restartEnds c.active now c := by
  unfold Channel.oneshotOn Channel.trigger Channel.startShot Claims.restartEnds
  rw [if_pos ⟨mode, trigger, (c.takes_iff gs).mpr ⟨running, free⟩⟩, ← Shot.start_eq]
  simp only [Shot.isActive_eq]
  by_cases restart : c.config.retrigger = some .restart
  · simp [restart]
  · by_cases idle : c.shot = .idle <;> simp [restart, idle, Claims.shotActive]

/-- R97: what is not a ONESHOT channel of this source drops the trigger. -/
theorem Channel.oneshotOn_deaf (src : ChanTrigger) (gs : Vector GroupRec 4) (now : Time) (c : Channel)
    (deaf : ¬(c.config.mode = .oneshot ∧ c.config.trigger = some src)) : c.oneshotOn src gs now = (c, false) := by
  unfold Channel.oneshotOn
  exact if_neg fun takes => deaf ⟨takes.1, takes.2.1⟩

/-! ### One pass with COMMIT triggers -/

/-- R67 and R97: the channel takes the COMMIT trigger of a group. -/
def Channel.takesCommit (g : Group) (c : Channel) : Prop :=
  c.config.mode = .oneshot ∧ c.config.trigger = some .commit ∧ c.config.group = g ∧ c.override = .none

/-- R67: the own part of a channel in the pass that a commit's triggers make. -/
def Channel.onCommit (g : Group) (gs : Vector GroupRec 4) (now : Time) (c : Channel) : Channel × Bool :=
  if c.config.group = g then c.oneshotOn .commit gs now else (c, false)

section
variable {g : Group} {gs : Vector GroupRec 4} {now : Time} {c : Channel}

theorem Channel.onCommit_taken (takes : c.takesCommit g) (running : gs[g].state ≠ .stopped) :
    (c.onCommit g gs now).1 =
        { c with shot := (Claims.shotTriggered c.active now c).1, ignored := (Claims.shotTriggered c.active now c).2 } ∧
      (c.onCommit g gs now).2 = Claims.restartEnds c.active now c := by
  obtain ⟨mode, trigger, own, free⟩ := takes
  subst own
  unfold Channel.onCommit
  rw [if_pos rfl, Channel.oneshotOn_free _ _ _ _ mode trigger running free, Channel.triggered_eq,
    Channel.oneshotOn_ends _ _ _ _ mode trigger running free]
  exact ⟨rfl, rfl⟩

theorem Channel.onCommit_dropped (drops : ¬c.takesCommit g) : c.onCommit g gs now = (c, false) := by
  unfold Channel.onCommit
  split
  · rename_i own
    by_cases free : c.override = .none
    · exact Channel.oneshotOn_deaf _ _ _ _ fun takes => drops ⟨takes.1, takes.2, own, free⟩
    · exact Channel.oneshotOn_barred _ _ _ _ (.inr free)
  · rfl

theorem Channel.onCommit_config : (c.onCommit g gs now).1.config = c.config := by
  unfold Channel.onCommit
  split
  · obtain ⟨_, _, same⟩ := Channel.oneshotOn_eq .commit gs now c
    rw [same]
  · rfl

end

theorem State.triggerCommit_deaf {g : Group} {s : State} {d : Chan} (deaf : s.chans[d].config.mode ≠ .follow) :
    (s.triggerCommit g).chans[d] = (s.chans[d].onCommit g s.groups s.now).1 := by
  unfold State.triggerCommit
  rw [State.drive_get]
  exact Channel.led_of_not_follow (by rw [← Channel.onCommit_config (g := g) (gs := s.groups) (now := s.now)] at deaf; exact deaf)

/-- R101 and R102: a follower, by whether its leader's own part of the pass is a leader end. -/
theorem State.triggerCommit_follower {g : Group} {s : State} {l f : Chan} (later : l < f)
    (mode : s.chans[f].config.mode = .follow) (leader : s.chans[f].config.leader = some l)
    (leads : s.chans[l].config.mode ≠ .follow) :
    (s.triggerCommit g).chans[f] =
      if (s.chans[l].onCommit g s.groups s.now).2 = true ∧ s.chans[f].takes s.groups = true then
        { s.chans[f] with shot := Shot.start s.chans[f].active s.now } else s.chans[f] := by
  show (s.drive fun _ c => c.onCommit g s.groups s.now).chans[f] = _
  have own : s.chans[f].onCommit g s.groups s.now = (s.chans[f], false) :=
    Channel.onCommit_dropped fun takes => absurd (mode.symm.trans takes.1) nofun
  have ends := sweepEnds_leader s.now s.groups (fun _ c => c.onCommit g s.groups s.now) s.chans l f later
    (by rw [Channel.onCommit_config]; exact leads)
  rw [State.drive_get, own]
  generalize sweepEnds _ _ _ _ _ = E at ends
  have led : s.chans[f].follows E = (s.chans[l].onCommit g s.groups s.now).2 := by
    unfold Channel.follows
    rw [mode, leader, Bool.eq_iff_iff]
    simp only [decide_true, Bool.true_and, List.contains_iff_mem]
    exact ends
  unfold Channel.led
  rw [led]
  simp only [Bool.and_eq_true]
  rfl

/-! ### A commit request -/

/-- R114: an accepted commit of this source is a recovery commit. -/
def GroupRec.recoversBy (src : Source) (r : GroupRec) : Bool := decide (r.state = .resuming) && decide (src ≠ .auto)

/-- The state in which an accepted commit gives its triggers: the records are moved. -/
def State.commitMoved (src : Source) (g : Group) (s : State) : State :=
  (s.mapGroupChans g fun c => if s.groups[g].recoversBy src then c.recover.commit else c.commit).setGroup g
    (s.groups[g].committed src)

/-- R67 and R114: the record of a group whose commit was accepted. -/
def GroupRec.afterCommit (src : Source) (r : GroupRec) : GroupRec :=
  if src = .auto then r
  else if r.state = .resuming then { r with state := .run, hold := 0, endPending := true }
  else { r with hold := 0 }

theorem GroupRec.accepts_iff (src : Source) (r : GroupRec) :
    r.accepts src = true ↔ r.sources.getLsbD src.bit = true ∧ (r.state = .run ∨ r.state = .resuming) := by
  unfold GroupRec.accepts
  rw [Bool.and_eq_true_iff, commits_eq, decide_eq_true_iff]

theorem State.requestCommit_ignored {src : Source} {g : Group} {s : State} (ignored : ¬s.groups[g].accepts src = true) :
    s.requestCommit src g = s := if_neg ignored

theorem State.requestCommit_eq {src : Source} {g : Group} {s : State} (accepts : s.groups[g].accepts src = true) :
    s.requestCommit src g =
      { s with groups := s.groups.set g (s.groups[g].afterCommit src)
               chans := ((s.commitMoved src g).triggerCommit g).chans } := by
  have frame : (s.commitMoved src g).triggerCommit g =
      { s with groups := s.groups.set g (s.groups[g].committed src)
               chans := ((s.commitMoved src g).triggerCommit g).chans } := State.drive_eq _ _
  unfold State.requestCommit
  rw [if_pos accepts]
  show (if s.groups[g].recoversBy src then ((s.commitMoved src g).triggerCommit g).setGroup g
      { ((s.commitMoved src g).triggerCommit g).groups[g] with state := .run, hold := 0, endPending := true }
    else (s.commitMoved src g).triggerCommit g) = _
  generalize ((s.commitMoved src g).triggerCommit g).chans = chans at frame
  rw [frame]
  by_cases recovers : s.groups[g].recoversBy src = true
  · obtain ⟨resuming, notAuto⟩ := Bool.and_eq_true_iff.mp recovers
    have committed : (s.groups.set g (s.groups[g].committed src))[g] = { s.groups[g] with hold := 0 } := by
      rw [set_get, if_pos rfl]
      exact if_neg (of_decide_eq_true notAuto)
    have after : s.groups[g].afterCommit src = { s.groups[g] with state := .run, hold := 0, endPending := true } := by
      unfold GroupRec.afterCommit
      rw [if_neg (of_decide_eq_true notAuto), if_pos (of_decide_eq_true resuming)]
    rw [if_pos recovers, after]
    have groups : (s.groups.set g (s.groups[g].committed src)).set g
        { (s.groups.set g (s.groups[g].committed src))[g] with state := .run, hold := 0, endPending := true } =
        s.groups.set g { s.groups[g] with state := .run, hold := 0, endPending := true } := by
      simp only [committed]
      exact Vector.set_set ..
    exact congrArg (fun v => { s with groups := v, chans := chans }) groups
  · have after : s.groups[g].afterCommit src = s.groups[g].committed src := by
      unfold GroupRec.afterCommit GroupRec.committed
      split
      · rfl
      · rename_i notAuto
        refine if_neg fun resuming => recovers ?_
        unfold GroupRec.recoversBy
        rw [resuming, decide_eq_true notAuto]
        rfl
    rw [if_neg recovers]
    exact congrArg (fun r => { s with groups := s.groups.set g r, chans := chans }) after.symm

section
variable (src : Source) (g : Group) (s : State)

theorem State.commitMoved_state (h : Group) : (s.commitMoved src g).groups[h].state = s.groups[h].state := by
  unfold State.commitMoved
  rw [State.setGroup_groups, set_get]
  split
  · rename_i here
    subst here
    unfold GroupRec.committed
    split <;> rfl
  · rfl

theorem State.commitMoved_get (d : Chan) : (s.commitMoved src g).chans[d] =
    { s.chans[d] with
      stage := if s.chans[d].config.group = g ∧ ¬s.chans[d].stage.isEmpty = true then s.chans[d].stage.emptied
        else s.chans[d].stage
      armed := if s.chans[d].config.group ≠ g then s.chans[d].armed
        else if (s.chans[d].stage.isEmpty && s.chans[d].armed.isEmpty && s.groups[g].recoversBy src) = true then
          { setpoint := some 0, delay := some 0 }
        else { setpoint := s.chans[d].stage.setpoint.or s.chans[d].armed.setpoint
               delay := s.chans[d].stage.delay.or s.chans[d].armed.delay } } := by
  refine (State.mapGroupChans_get g _ s d).trans ?_
  by_cases own : s.chans[d].config.group = g
  · rw [if_pos own, Channel.commit_eq]
    by_cases empty : s.chans[d].stage.isEmpty = true <;> simp only [own, empty, ne_eq, not_true, not_false_eq_true,
      and_true, and_false, Bool.false_eq_true, if_true, if_false]
  · simp only [own, ne_eq, false_and, not_false_eq_true, if_true, if_false]

end

theorem commitRequestMovesRecords : Claims.CommitRequestMovesRecords := by
  intro src g s r named t
  have bit : named = r.sources.getLsbD src.bit := by
    cases src <;> rfl
  refine ⟨fun ignored => ?_, fun name state => ?_⟩
  · refine State.requestCommit_ignored fun accepts => ignored ?_
    rw [bit]
    exact (GroupRec.accepts_iff src r).mp accepts
  · have accepts : s.groups[g].accepts src = true := (GroupRec.accepts_iff src r).mpr ⟨bit ▸ name, state⟩
    have taken : t = { s with
        groups := s.groups.set g (s.groups[g].afterCommit src)
        chans := ((s.commitMoved src g).triggerCommit g).chans } := State.requestCommit_eq accepts
    clear_value t
    have groups : t.groups = s.groups.set g (s.groups[g].afterCommit src) := congrArg State.groups taken
    have chans : t.chans = ((s.commitMoved src g).triggerCommit g).chans := by rw [taken]
    refine ⟨?_, fun h other => ?_, ?_, fun d => ?_⟩
    · obtain ⟨chans, whole⟩ : ∃ chans, t = { s with
          groups := s.groups.set g (s.groups[g].afterCommit src), chans := chans } := ⟨_, taken⟩
      rw [whole]
    · rw [groups, set_get, if_neg (Ne.symm other)]
    · rw [groups, set_get, if_pos rfl]
      rfl
    · intro c empty bare
      obtain ⟨shot, ignored, moved⟩ := State.triggerCommit_get g (s.commitMoved src g) d
      rw [chans, moved, State.commitMoved_get]
      have isEmpty : s.chans[d].stage.isEmpty = empty := Stage.isEmpty_iff _
      have isBare : (s.chans[d].stage.isEmpty && s.chans[d].armed.isEmpty) = bare := by
        rw [isEmpty, Armed.isEmpty_iff]
      have recovery : ((s.chans[d].stage.isEmpty && s.chans[d].armed.isEmpty && s.groups[g].recoversBy src) = true) =
          (bare = true ∧ src ≠ .auto ∧ r.state = .resuming) := by
        rw [isBare]
        unfold GroupRec.recoversBy
        simp only [Bool.and_eq_true, decide_eq_true_eq, eq_iff_iff]
        exact and_congr_right fun _ => and_comm
      refine congrArg₂ (fun stage armed => { s.chans[d] with
        shot := shot, ignored := ignored, stage := stage, armed := armed }) ?_ ?_
      · exact if_congr (by rw [isEmpty]) rfl rfl
      · exact if_congr Iff.rfl rfl (if_congr (iff_of_eq recovery) rfl rfl)

theorem commitTriggersStartShots : Claims.CommitTriggersStartShots := by
  intro src g s name state t triggered d c
  have accepts : s.groups[g].accepts src = true :=
    (GroupRec.accepts_iff src _).mpr ⟨Eq.trans (by cases src <;> rfl) name, state⟩
  have taken : t.chans = ((s.commitMoved src g).triggerCommit g).chans := by
    rw [show t = _ from State.requestCommit_eq accepts]
  clear_value t
  have running : (s.commitMoved src g).groups[g].state ≠ .stopped := by
    rw [State.commitMoved_state]
    rintro stopped
    rw [stopped] at state
    simp at state
  have takes (e : Chan) : (s.commitMoved src g).chans[e].takesCommit g ↔ triggered s.chans[e] := by
    rw [State.commitMoved_get]
    rfl
  rw [taken]
  refine ⟨fun yes => ?_, fun no deaf => ?_, fun l mode leader later leads => ?_⟩
  · have own := (Channel.onCommit_taken (now := s.now) ((takes d).mpr yes) running).1
    rw [State.triggerCommit_deaf (by rw [State.commitMoved_get]; exact fun follow => absurd (yes.1.symm.trans follow) nofun)]
    rw [show (s.commitMoved src g).now = s.now from rfl, own, State.commitMoved_get]
    rfl
  · rw [State.triggerCommit_deaf (by rw [State.commitMoved_get]; exact deaf),
      Channel.onCommit_dropped (mt (takes d).mp no), State.commitMoved_get]
    exact ⟨rfl, rfl⟩
  · rw [State.triggerCommit_follower later (by rw [State.commitMoved_get]; exact mode)
      (by rw [State.commitMoved_get]; exact leader) (by rw [State.commitMoved_get]; exact leads)]
    have may : (s.commitMoved src g).chans[d].takes (s.commitMoved src g).groups = true ↔
        s.groups[c.config.group].state ≠ .stopped ∧ c.override = .none := by
      rw [Channel.takes_iff, State.commitMoved_state, State.commitMoved_get]
    have ends : ((s.commitMoved src g).chans[l].onCommit g (s.commitMoved src g).groups (s.commitMoved src g).now).2 = true ↔
        triggered s.chans[l] ∧ Claims.restartEnds s.chans[l].active s.now s.chans[l] = true := by
      by_cases yes : triggered s.chans[l]
      · rw [(Channel.onCommit_taken ((takes l).mpr yes) running).2, State.commitMoved_get, and_iff_right yes]
        rfl
      · rw [Channel.onCommit_dropped (mt (takes l).mp yes)]
        exact iff_of_false nofun fun both => yes both.1
    simp only [may, ends, Shot.start_eq, and_assoc]
    rw [State.commitMoved_get]
    split <;> rfl

/-- Settles O24. -/
theorem commitRequestMeetsTheCommitTest : Obligations.CommitRequestMeetsTheCommitTest :=
  ⟨commitRequestMovesRecords, commitTriggersStartShots⟩

end Sys2Proof.Machine
end

section
/-!
PROOFS. Staging an accepted PUT (R62 to R65).
-/

namespace Sys2Proof.Machine

/-! ### The values that are kept (R62) -/

/-- R62: a value for this channel and parameter. -/
def Destined.isFor (c : Chan) (p : Param) (v : Destined) : Bool := decide (v.chan = c ∧ v.param = p)

theorem Destined.same_isFor {v w : Destined} (c : Chan) (p : Param)
    (same : (w.chan == v.chan && w.param == v.param) = true) : w.isFor c p = v.isFor c p := by
  simp only [Bool.and_eq_true, beq_iff_eq] at same
  unfold Destined.isFor
  rw [same.1, same.2]

theorem Destined.same_of_isFor {v w : Destined} {c : Chan} {p : Param} (one : v.isFor c p = true)
    (two : w.isFor c p = true) : (w.chan == v.chan && w.param == v.param) = true := by
  obtain ⟨chan, param⟩ := of_decide_eq_true one
  obtain ⟨chan', param'⟩ := of_decide_eq_true two
  rw [chan, param, chan', param', beq_self_eq_true, beq_self_eq_true]
  rfl

/-- R62: of the values for one channel and parameter the last in list order is kept, alone. -/
theorem keepLast_for (c : Chan) (p : Param) (vs : List Destined) :
    (keepLast vs).filter (·.isFor c p) = (vs.filter (·.isFor c p)).getLast?.toList := by
  induction vs with
  | nil => rfl
  | cons v vs ih =>
    unfold keepLast
    split
    · rename_i later
      rw [ih, List.filter_cons]
      split
      · rename_i here
        obtain ⟨w, mem, same⟩ := List.any_eq_true.mp later
        have kept : w ∈ vs.filter (·.isFor c p) := List.mem_filter.mpr ⟨mem, (Destined.same_isFor c p same).trans here⟩
        rw [List.getLast?_cons]
        cases rest : vs.filter (·.isFor c p) with
        | nil => rw [rest] at kept; cases kept
        | cons x xs => rw [List.getLast?_cons]; rfl
      · rfl
    · rename_i last
      rw [List.filter_cons, List.filter_cons, ih]
      split
      · rename_i here
        have none : vs.filter (·.isFor c p) = [] := by
          refine List.filter_eq_nil_iff.mpr fun w mem there => last ?_
          exact List.any_eq_true.mpr ⟨w, mem, Destined.same_of_isFor here there⟩
        rw [none]
        rfl
      · rfl

/-- R62: a channel is among the kept values' where it is among all values'. -/
theorem keepLast_any (q : Chan → Bool) (vs : List Destined) :
    (keepLast vs).any (fun v => q v.chan) = vs.any fun v => q v.chan := by
  induction vs with
  | nil => rfl
  | cons v vs ih =>
    unfold keepLast
    split
    · rename_i later
      obtain ⟨w, mem, same⟩ := List.any_eq_true.mp later
      simp only [Bool.and_eq_true, beq_iff_eq] at same
      rw [ih, List.any_cons]
      cases here : q v.chan with
      | false => rfl
      | true => exact List.any_eq_true.mpr ⟨w, mem, by rw [same.1, here]⟩
    · rw [List.any_cons, List.any_cons, ih]

/-- R62: the value that a PUT has for one channel and parameter. -/
def lastFor (data : List Byte) (unpack : List Descriptor) (c : Chan) (p : Param) : Option Destined :=
  (unpack.filter fun d => decide (d.chan = c ∧ d.param = p)).getLast?.map (Descriptor.read data)

theorem destined_for (data : List Byte) (unpack : List Descriptor) (c : Chan) (p : Param) :
    (destined data unpack).filter (·.isFor c p) = (lastFor data unpack c p).toList := by
  unfold destined lastFor
  rw [keepLast_for, List.filter_map, List.getLast?_map]
  rfl

/-! ### Staging at one channel (R64, R65) -/

/-- R65: a count that is stepped where a test holds. -/
def bumped (yes : Bool) (n : Byte) : Byte := if yes then satInc n else n

/-- R64 and R65: a channel that takes a delay, a setpoint, both or neither from a PUT on a tag. -/
def Channel.stagedBy (tag : Tag) (sp de : Option Nat) (c : Channel) : Channel :=
  { c with
    stage :=
      { setpoint := (sp.map clampTo12).or c.stage.setpoint
        delay := (de.map clampTo12).or c.stage.delay
        source := if sp.isSome || de.isSome then some tag else c.stage.source
        overwrite := bumped (sp.isSome && c.stage.setpoint.isSome)
          (bumped (de.isSome && c.stage.delay.isSome) c.stage.overwrite) }
    clamp := bumped (sp.any fun v => decide (4095 < v)) (bumped (de.any fun v => decide (4095 < v)) c.clamp) }

theorem Channel.stageValue_comm (tag : Tag) {v w : Destined} (params : v.param ≠ w.param) (c : Channel) :
    (c.stageValue tag v).stageValue tag w = (c.stageValue tag w).stageValue tag v := by
  obtain ⟨chan, param, value⟩ := v
  obtain ⟨chan', param', value'⟩ := w
  unfold Channel.stageValue Stage.merge
  cases param <;> cases param'
  · exact absurd rfl params
  · dsimp only
    congr 1
    · congr 1
      split <;> split <;> rfl
    · split <;> split <;> rfl
  · dsimp only
    congr 1
    · congr 1
      split <;> split <;> rfl
    · split <;> split <;> rfl
  · exact absurd rfl params

theorem Channel.stage_in_order (tag : Tag) (sp de : Option Destined) (c : Channel)
    (isSetpoint : ∀ v ∈ sp, v.param = .setpoint) (isDelay : ∀ v ∈ de, v.param = .delay) :
    (de.toList ++ sp.toList).foldl (fun c v => c.stageValue tag v) c =
      c.stagedBy tag (sp.map (·.value)) (de.map (·.value)) := by
  have one (v : Destined) (yes : v.param = .setpoint) (c : Channel) :
      c.stageValue tag v = c.stagedBy tag (some v.value) none := by
    obtain ⟨chan, param, value⟩ := v
    cases yes
    simp [Channel.stageValue, Channel.stagedBy, Stage.merge, bumped]
  have two (v : Destined) (yes : v.param = .delay) (c : Channel) :
      c.stageValue tag v = c.stagedBy tag none (some v.value) := by
    obtain ⟨chan, param, value⟩ := v
    cases yes
    simp [Channel.stageValue, Channel.stagedBy, Stage.merge, bumped]
  cases sp with
  | none =>
    cases de with
    | none => rfl
    | some w => exact two w (isDelay w rfl) c
  | some v =>
    cases de with
    | none => exact one v (isSetpoint v rfl) c
    | some w =>
      show (c.stageValue tag w).stageValue tag v = _
      rw [two w (isDelay w rfl), one v (isSetpoint v rfl)]
      rfl

/-- R62 to R65: the values of a PUT for one channel, of which no two are for one parameter. -/
theorem Channel.stage_destined (tag : Tag) (data : List Byte) (unpack : List Descriptor) (d : Chan) (c : Channel) :
    ((destined data unpack).filter fun v => decide (v.chan = d)).foldl (fun c v => c.stageValue tag v) c =
      c.stagedBy tag ((lastFor data unpack d .setpoint).map (·.value)) ((lastFor data unpack d .delay).map (·.value)) := by
  let vs := (destined data unpack).filter fun v => decide (v.chan = d)
  have ofParam (p : Param) : vs.filter (fun v => decide (v.param = p)) = (lastFor data unpack d p).toList := by
    rw [← destined_for, List.filter_filter]
    refine List.filter_congr fun v _ => ?_
    rw [Bool.and_comm, ← Bool.decide_and]
    rfl
  have param (p : Param) : ∀ v ∈ lastFor data unpack d p, v.param = p := by
    intro v mem
    have kept : v ∈ vs.filter (fun v => decide (v.param = p)) := by
      rw [ofParam]
      exact Option.mem_toList.mpr mem
    exact of_decide_eq_true (List.mem_filter.mp kept).2
  have perm : ((lastFor data unpack d .delay).toList ++ (lastFor data unpack d .setpoint).toList).Perm vs := by
    rw [← ofParam .delay, ← ofParam .setpoint]
    have parts := List.filter_append_perm (fun v : Destined => decide (v.param = .delay)) vs
    have other : vs.filter (fun v => !decide (v.param = .delay)) = vs.filter fun v => decide (v.param = .setpoint) := by
      refine List.filter_congr fun v _ => ?_
      cases v.param <;> rfl
    rwa [other] at parts
  have alone {v w : Destined} (here : v ∈ vs) (there : w ∈ vs) (same : v.param = w.param) : v = w := by
    have memV : v ∈ vs.filter (fun x => decide (x.param = w.param)) := List.mem_filter.mpr ⟨here, decide_eq_true same⟩
    have memW : w ∈ vs.filter (fun x => decide (x.param = w.param)) := List.mem_filter.mpr ⟨there, decide_eq_true rfl⟩
    rw [ofParam, Option.mem_toList] at memV memW
    exact Option.some.inj (memV.symm.trans memW)
  rw [← Channel.stage_in_order tag _ _ c (param .setpoint) (param .delay)]
  refine perm.symm.foldl_eq' (fun v here w there z => ?_) c
  by_cases same : v.param = w.param
  · rw [alone here there same]
  · exact Channel.stageValue_comm tag same z

/-! ### Staging in the state (R63) -/

theorem State.stageAll_get (tag : Tag) (vs : List Destined) (u : State) (d : Chan) :
    (vs.foldl (fun t v => t.stageOne tag v) u).chans[d] =
      if (u.groupState u.chans[d].config.group).discards then u.chans[d]
      else (vs.filter fun v => decide (v.chan = d)).foldl (fun c v => c.stageValue tag v) u.chans[d] := by
  induction vs generalizing u with
  | nil => exact (ite_self _).symm
  | cons v vs ih =>
    rw [List.foldl_cons, ih]
    by_cases drops : (u.groupState u.chans[v.chan].config.group).discards = true
    · have same : u.stageOne tag v = u := if_pos drops
      rw [same]
      by_cases here : v.chan = d
      · subst here
        rw [if_pos drops, if_pos drops]
      · rw [List.filter_cons_of_neg (by simpa using here)]
    · have staged : u.stageOne tag v = u.setChan v.chan (u.chans[v.chan].stageValue tag v) := if_neg drops
      rw [staged]
      have chan : (u.setChan v.chan (u.chans[v.chan].stageValue tag v)).chans[d] =
          if v.chan = d then u.chans[v.chan].stageValue tag v else u.chans[d] := set_get ..
      rw [chan]
      by_cases here : v.chan = d
      · subst here
        rw [if_pos rfl, List.filter_cons_of_pos (p := fun w : Destined => decide (w.chan = v.chan)) (decide_eq_true rfl),
          List.foldl_cons]
        have config : (u.chans[v.chan].stageValue tag v).config = u.chans[v.chan].config := rfl
        have state (g : Group) : (u.setChan v.chan (u.chans[v.chan].stageValue tag v)).groupState g = u.groupState g := rfl
        rw [config, state, if_neg drops, if_neg drops]
      · rw [if_neg here, List.filter_cons_of_neg (by simpa using here)]
        rfl

theorem State.countDiscards_get (vs : List Destined) (s : State) (g : Group) : (s.countDiscards vs).groups[g] =
    if discardsFor s vs g then { s.groups[g] with discard := satInc s.groups[g].discard } else s.groups[g] :=
  State.eachGroup_group (turn := fun g t => t.setGroup g { t.groups[g] with discard := satInc t.groups[g].discard })
    (act := fun r => { r with discard := satInc r.discard }) (fun _ _ => rfl) g

theorem State.countDiscards_state (vs : List Destined) (s : State) (g : Group) :
    (s.countDiscards vs).groupState g = s.groupState g := by
  unfold State.groupState
  rw [State.countDiscards_get]
  split <;> rfl

theorem discards_iff (g : GroupState) : g.discards = decide (g = .stopped ∨ g = .fallback) := by cases g <;> rfl

theorem State.stagePut_eq (tag : Tag) (data : List Byte) (unpack : List Descriptor) (s : State) :
    s.stagePut tag data unpack = { s with
      chans := (s.stagePut tag data unpack).chans, groups := (s.stagePut tag data unpack).groups } := by
  have frame := State.stagePut_frame tag data unpack s
  generalize s.stagePut tag data unpack = t at frame
  obtain ⟨⟩ := t
  simp only at frame
  simp only [frame]

theorem putValuesAreMergedOrDiscarded : Claims.PutValuesAreMergedOrDiscarded := by
  intro tag data copy s t value last drops
  have eachDrops (g : Group) : (s.groupState g).discards = drops g := discards_iff _
  refine ⟨State.stagePut_eq tag data copy.unpack s, fun g => ?_, fun c => ?_⟩
  · have groups : t.groups = (s.countDiscards (destined data copy.unpack)).groups := by
      simp [t, State.stagePut]
    rw [groups, State.countDiscards_get]
    unfold discardsFor destined
    rw [keepLast_any (fun c => s.chans[c].config.group == g), List.any_map, eachDrops]
    rfl
  · intro r sp de bump
    have read (p : Param) : (lastFor data copy.unpack c p).map (·.value) = last c p := by
      unfold lastFor
      rw [Option.map_map]
      refine congrArg (fun f => Option.map f _) (funext fun d => ?_)
      show (Descriptor.read data d).value = value d
      unfold Descriptor.read
      dsimp only [value]
      cases d.size <;> rfl
    have staged := State.stageAll_get tag (destined data copy.unpack) (s.countDiscards (destined data copy.unpack)) c
    have chans : (s.countDiscards (destined data copy.unpack)).chans = s.chans := by simp
    rw [chans, State.countDiscards_state, eachDrops, Channel.stage_destined, read, read] at staged
    exact staged

theorem selfCommitsFollowTheStaging : Claims.SelfCommitsFollowTheStaging := by
  intro tag data copy s staged concerned
  have config (c : Chan) : staged.chans[c].config = s.chans[c].config := by
    rw [(putValuesAreMergedOrDiscarded tag data copy s).2.2 c]
    dsimp only
    split <;> rfl
  have named : selfGroups staged copy.unpack = concerned := by
    funext g
    unfold selfGroups
    simp only [config]
    rw [Bool.eq_iff_iff, Bool.or_eq_true, List.isEmpty_iff, List.any_eq_true]
    simp only [beq_iff_eq]
    exact decide_eq_true_iff.symm
  unfold State.applyPut State.requestCommits
  rw [List.foldl_filter]
  dsimp only
  rw [named]

/-- Settles O25. -/
theorem putValuesAreStaged : Obligations.PutValuesAreStaged :=
  ⟨putValuesAreMergedOrDiscarded, selfCommitsFollowTheStaging⟩

end Sys2Proof.Machine
end

section
/-!
PROOFS. A cycle start, whatever the orders that log 9 leaves open (R69, R70, R81, R82, R94 to R97, R101, R108, R115,
R125, R134), and the restart that a MARK makes (R72, R73, R83).
-/

namespace Sys2Proof.Machine

/-! ### Groups and records -/

theorem GroupRec.supervised_eq (r : GroupRec) : GroupRec.supervised r = Claims.groupStarted r := rfl

theorem GroupRec.runs_eq (r : GroupRec) : r.state.commits = Claims.runs r := commits_eq _

theorem GroupRec.accepts_auto (r : GroupRec) : r.accepts .auto = Claims.takesAuto r := by
  unfold GroupRec.accepts Claims.takesAuto
  rw [GroupRec.runs_eq, Bool.and_comm]
  rfl

theorem Channel.copied_eq (r : GroupRec) (c : Channel) : c.copied r = { c with
    active := Claims.goesLive r c
    armed := if Claims.runs r then { setpoint := none, delay := none } else c.armed } := by
  unfold Channel.copied Claims.goesLive
  rw [GroupRec.runs_eq]
  split <;> rfl

/-- R69 and R70: a channel when armed fields have gone live and an AUTO commit has armed what was staged. -/
def Channel.autoArmed (r : GroupRec) (c : Channel) : Channel :=
  { c with
    active := Claims.goesLive r c
    armed := if Claims.takesAuto r then { setpoint := c.stage.setpoint, delay := c.stage.delay }
      else if Claims.runs r then { setpoint := none, delay := none } else c.armed
    stage := if Claims.takesAuto r && decide (c.stage.setpoint ≠ none ∨ c.stage.delay ≠ none) then
      { c.stage with setpoint := none, delay := none, source := none } else c.stage }

theorem Channel.autoed_copied (r : GroupRec) (c : Channel) : (c.copied r).autoed r = c.autoArmed r := by
  rw [Channel.copied_eq]
  unfold Channel.autoed Channel.autoArmed Channel.commit
  rw [GroupRec.accepts_auto]
  by_cases auto : Claims.takesAuto r = true
  · have runs : Claims.runs r = true := (Bool.and_eq_true_iff.mp auto).1
    rw [if_pos auto, if_pos runs]
    simp only [auto, Bool.true_and, if_true]
    cases setpoint : c.stage.setpoint <;> cases delay : c.stage.delay <;>
      simp [Stage.isEmpty, Stage.emptied, setpoint, delay]
  · simp only [auto, Bool.false_and, if_false, Bool.false_eq_true]

/-- R108 and R115 for one channel. -/
theorem Channel.supervised_eq (r : GroupRec) (c : Channel) : Channel.supervised r c =
    if Claims.fallsForHold r then Claims.fellBack (if Claims.recovers r then { c with override := .none } else c)
    else if Claims.recovers r then { c with override := .none } else c := by
  unfold Channel.supervised Claims.recovers
  by_cases run : r.state = .run
  · rw [if_neg (not_not.mpr run), decide_eq_true run, Bool.true_and]
    dsimp only
    rw [Channel.enterFallback_eq]
    rfl
  · have stays : Claims.fallsForHold r = false := decide_eq_false fun falls => run falls.1
    rw [if_pos run, stays, decide_eq_false run]
    rfl

theorem Channel.settled_eq (live : Active) (r : GroupRec) (c : Channel) : c.settled live r = { c with
    latch := if r.state ≠ .stopped ∧ c.config.mode = .level then decide (live.setpoint ≠ 0) else c.latch
    phase := if r.state ≠ .stopped ∧ c.config.mode = .width then
        decide (live.delay = 0) && decide (live.setpoint ≠ 0) && decide (c.active.setpoint ≠ 0)
      else c.phase } := by
  unfold Channel.settled
  by_cases stopped : r.state = .stopped
  · simp [stopped]
  · rw [if_neg stopped]
    cases mode : c.config.mode <;> simp [stopped]

/-- R112: what an entry into FALLBACK leaves of the fields that a cycle start settles. -/
theorem Channel.fellBack_settles (c : Channel) : (Claims.fellBack c).config = c.config ∧
    (Claims.fellBack c).latch = c.latch ∧
    ((Claims.fellBack c).active.setpoint = if c.config.action = .idle then 0 else c.active.setpoint) := by
  unfold Claims.fellBack
  cases action : c.config.action <;> exact ⟨rfl, rfl, rfl⟩

/-- R69, R70, R112 and R115: a channel but for what R94 and R96 settle. -/
def Channel.beforeSettling (r : GroupRec) (c : Channel) : Channel :=
  let moved := { c.autoArmed r with override := if Claims.recovers r then .none else c.override }
  if Claims.fallsForHold r then Claims.fellBack moved else moved

theorem Channel.worked_copied (r : GroupRec) (c : Channel) : (c.copied r).worked r = c.beforeSettling r := by
  unfold Channel.worked Channel.beforeSettling
  rw [Channel.autoed_copied, Channel.supervised_eq]
  cases Claims.recovers r <;> rfl

theorem Channel.beforeSettling_settles (r : GroupRec) (c : Channel) : (c.beforeSettling r).config = c.config ∧
    (c.beforeSettling r).latch = c.latch ∧ ((c.beforeSettling r).active.setpoint =
      if Claims.fallsForHold r = true ∧ c.config.action = .idle then 0 else (Claims.goesLive r c).setpoint) := by
  unfold Channel.beforeSettling
  dsimp only
  cases falls : Claims.fallsForHold r
  · exact ⟨rfl, rfl, by simp [Channel.autoArmed]⟩
  · obtain ⟨config, latch, setpoint⟩ := Channel.fellBack_settles
      { c.autoArmed r with override := if Claims.recovers r then .none else c.override }
    exact ⟨config, latch, setpoint.trans (if_congr (by simp [Channel.autoArmed]) rfl rfl)⟩

theorem Channel.cycled_eq (r : GroupRec) (c : Channel) : c.cycled r = Claims.channelStarted r c := by
  obtain ⟨config, latch, setpoint⟩ := Channel.beforeSettling_settles r c
  have active : (c.copied r).active = Claims.goesLive r c := by rw [Channel.copied_eq]
  have phase : (decide ((Claims.goesLive r c).delay = 0) && decide ((Claims.goesLive r c).setpoint ≠ 0) &&
      decide ((c.beforeSettling r).active.setpoint ≠ 0)) = decide ((Claims.goesLive r c).delay = 0 ∧
        (Claims.goesLive r c).setpoint ≠ 0 ∧ ¬(Claims.fallsForHold r = true ∧ c.config.action = .idle)) := by
    rw [setpoint, Bool.eq_iff_iff]
    split <;> simp_all
  have started : Claims.channelStarted r c = { c.beforeSettling r with
      latch := if r.state ≠ .stopped ∧ c.config.mode = .level then decide ((Claims.goesLive r c).setpoint ≠ 0)
        else c.latch
      phase := if r.state ≠ .stopped ∧ c.config.mode = .width then
          decide ((Claims.goesLive r c).delay = 0 ∧ (Claims.goesLive r c).setpoint ≠ 0 ∧
            ¬(Claims.fallsForHold r = true ∧ c.config.action = .idle))
        else (c.beforeSettling r).phase } := rfl
  unfold Channel.cycled
  rw [started, Channel.worked_copied, Channel.settled_eq, active, config, latch, phase]
  simp only [ne_eq, GroupRec.supervised_stopped]
  rw [config]

/-! ### The postings of a cycle start (log 10) -/

/-- A test that tells the postings of two units apart keeps each unit's in order. -/
theorem State.eitherOrder_filter {xs ys : List Posting} (s : State) (q : Posting → Bool)
    (first : ∀ x ∈ xs, q x = true) (second : ∀ y ∈ ys, q y = false) :
    (s.eitherOrder xs ys).filter q = xs ∧ (s.eitherOrder xs ys).filter (fun p => !q p) = ys :=
  interleave_filter q _ _ _ _ first second

theorem GroupRec.recovers_iff {r : GroupRec} : Claims.recovers r = true ↔ r.state = .run ∧ r.endPending = true := by
  unfold Claims.recovers
  rw [Bool.and_eq_true, decide_eq_true_iff]

theorem State.endPostings_eq (s : State) : s.endPostings = (allGroups.filter fun g => Claims.recovers s.groups[g]).map
    fun g => { code := .groupRun, subject := .group g, detail := .recovered } := by
  unfold State.endPostings
  induction allGroups with
  | nil => rfl
  | cons g gs rest =>
    rw [List.flatMap_cons, rest, List.filter_cons]
    unfold GroupRec.endPostings
    by_cases ends : Claims.recovers s.groups[g] = true
    · rw [if_pos ends, if_pos (GroupRec.recovers_iff.mp ends)]
      rfl
    · rw [if_neg ends, if_neg (mt GroupRec.recovers_iff.mpr ends)]
      rfl

theorem State.holdPostings_eq (s : State) :
    s.holdPostings = (allGroups.filter fun g => Claims.fallsForHold s.groups[g]).map
      fun g => { code := .fallback, subject := .group g, detail := .cause .hold false } := by
  unfold State.holdPostings
  induction allGroups with
  | nil => rfl
  | cons g gs rest =>
    rw [List.flatMap_cons, rest, List.filter_cons]
    unfold GroupRec.holdPostings
    show (if Claims.fallsForHold s.groups[g] = true then _ else _) ++ _ = _
    split <;> rfl

theorem startPostings_split (own : List Posting) (s : State)
    (others : ∀ q ∈ own, q.code ≠ .groupRun ∧ q.code ≠ .fallback) :
    (s.startPostings own).filter (fun q => decide (q.code ≠ .groupRun ∧ q.code ≠ .fallback)) = own ∧
    (s.startPostings own).filter (fun q => decide (q.code = .groupRun)) = s.endPostings ∧
    (s.startPostings own).filter (fun q => decide (q.code = .fallback)) = s.holdPostings := by
  have runs : ∀ q ∈ s.endPostings, q.code = .groupRun := by
    rw [State.endPostings_eq]
    intro q member
    obtain ⟨g, -, rfl⟩ := List.mem_map.mp member
    rfl
  have falls : ∀ q ∈ s.holdPostings, q.code = .fallback := by
    rw [State.holdPostings_eq]
    intro q member
    obtain ⟨g, -, rfl⟩ := List.mem_map.mp member
    rfl
  have inner := State.eitherOrder_filter s (fun q => decide (q.code = .groupRun))
    (fun q member => decide_eq_true (runs q member))
    (fun q member => decide_eq_false (by rw [falls q member]; nofun))
  have mixed : ∀ q ∈ s.eitherOrder s.endPostings s.holdPostings, q.code = .groupRun ∨ q.code = .fallback := by
    intro q member
    by_cases run : q.code = .groupRun
    · exact .inl run
    · refine .inr (falls q ?_)
      rw [← inner.2]
      exact List.mem_filter.mpr ⟨member, by simp [run]⟩
  have outer := State.eitherOrder_filter s.drawn (fun q => decide (q.code ≠ .groupRun ∧ q.code ≠ .fallback))
    (fun q member => decide_eq_true (others q member))
    (fun q member => decide_eq_false fun neither => (mixed q member).elim neither.1 neither.2)
  have within (p : Posting → Bool) (implies : ∀ q : Posting, p q = true → q.code = .groupRun ∨ q.code = .fallback) :
      (s.startPostings own).filter p = (s.eitherOrder s.endPostings s.holdPostings).filter p := by
    rw [← outer.2, List.filter_filter]
    refine List.filter_congr fun q _ => ?_
    cases here : p q with
    | false => rfl
    | true => rcases implies q here with code | code <;> simp [code]
  refine ⟨outer.1, ?_, ?_⟩
  · rw [within _ fun q here => .inl (of_decide_eq_true here), inner.1]
  · rw [within _ fun q here => .inr (of_decide_eq_true here)]
    refine Eq.trans (List.filter_congr fun q member => ?_) inner.2
    rcases mixed q member with code | code <;> rw [code] <;> rfl

theorem State.cycleStart_started (own : List Posting) (s : State)
    (others : ∀ q ∈ own, q.code ≠ .groupRun ∧ q.code ≠ .fallback) :
    Claims.cycleStarted own s (s.cycleStart own) := by
  obtain ⟨whole, groups, chans, caps⟩ := State.cycleStart_spec own s
  obtain ⟨ownOrder, runOrder, fallOrder⟩ := startPostings_split own s others
  generalize s.cycleStart own = t at whole groups chans caps ⊢
  have events : t.events = (s.startPostings own).foldl (fun b q => b.post s.cycle.number q) s.events := by rw [whole]
  have draws : t.draws = s.draws + 2 := by rw [whole]
  refine ⟨?_, groups, fun d => ?_, fun k => ?_, s.startPostings own, events, ownOrder, ?_, ?_⟩
  · rw [events, draws, ← Sampler.atEvent_eq]
    exact whole
  · obtain ⟨shot, ignored, same⟩ := chans d _ rfl
    rw [same, Channel.cycled_eq]
  · rw [caps, Capture.atCycleStart_eq]
  · rw [runOrder, State.endPostings_eq]
  · rw [fallOrder, State.holdPostings_eq]

/-! ### Shots at a cycle start -/

theorem Channel.calm_iff (r : GroupRec) (c : Channel) :
    c.calm r ↔ (Claims.fallsForHold r = true → c.config.action = .hold) := by
  unfold Channel.calm
  rw [← Bool.not_eq_true, ← imp_iff_not_or]
  rfl

theorem Channel.copied_active (r : GroupRec) (c : Channel) : (c.copied r).active = Claims.goesLive r c := by
  rw [Channel.copied_eq]

/-- R97: the supervisor, the latch and the phase leave a calm channel's shot and ignored-trigger count alone. -/
theorem Channel.cycled_shot (r : GroupRec) (c : Channel) (calm : c.calm r) :
    (c.cycled r).shot = c.shot ∧ (c.cycled r).ignored = c.ignored := by
  obtain ⟨shot, ignored, -, -⟩ := Channel.copied_shot r c
  have calm' : (c.copied r).calm r := by
    unfold Channel.calm
    rw [Channel.copied_config]
    exact calm
  obtain ⟨worked, count⟩ := Channel.worked_same_shot r (c.copied r) calm'
  unfold Channel.cycled
  rw [Channel.settled_eq]
  exact ⟨worked.trans shot, count.trans ignored⟩

/-- R101: where a leader's output ends at a cycle start. -/
theorem Channel.endsOn_iff {live : Active} {now : Time} {c : Channel}
    (leads : c.config.mode = .width ∨ (c.config.mode = .oneshot ∧ c.config.trigger ≠ some .commit)) :
    c.endsOn live now = true ↔
      (c.config.mode = .width ∧ c.phase = true ∧ ¬(live.delay = 0 ∧ live.setpoint ≠ 0)) ∨
      (c.config.mode = .oneshot ∧ c.config.trigger = some .cycle ∧ Claims.restartEnds live now c = true) := by
  unfold Channel.endsOn Active.widthPhase Claims.restartEnds
  rw [Shot.start_eq, Shot.isActive_eq, Shot.isActive_eq]
  rcases leads with mode | ⟨mode, -⟩
  · rw [mode]
    simp [imp_iff_not_or]
  · rw [mode]
    simp [and_assoc]

theorem State.cycleStart_shots (own : List Posting) (s : State) : Claims.shotsStarted s (s.cycleStart own) := by
  intro d c r calm stays keeps takes
  have calmIff (e : Chan) : calm e ↔ s.chans[e].calm s.groups[s.chans[e].config.group] := (Channel.calm_iff _ _).symm
  have still (h : stays) : s.chans[d].override ≠ .none ∧ Channel.still s.groups[s.chans[d].config.group] := by
    obtain ⟨override, falls, recovers⟩ := h
    exact ⟨override, falls, fun both => by rw [GroupRec.recovers_iff.mpr both] at recovers; cases recovers⟩
  have barred (h : r.state = .stopped ∨ stays) : keeps := State.cycleStart_barred own s d _ rfl (h.imp_right still)
  have plain (mode : c.config.mode ≠ .follow)
      (deaf : c.config.mode = .oneshot → c.config.trigger ≠ some .commit ∧ c.config.trigger ≠ some .cycle)
      (quiet : calm d) : keeps := by
    have same := State.cycleStart_plain own s d _ rfl mode deaf
    obtain ⟨shot, ignored⟩ := Channel.cycled_shot _ _ ((calmIff d).mp quiet)
    exact ⟨(congrArg Channel.shot same).trans shot, (congrArg Channel.ignored same).trans ignored⟩
  have triggered : c.triggered (c.copied r).active s.now = Claims.shotTriggered (Claims.goesLive r c) s.now c := by
    rw [Channel.copied_active, Channel.triggered_eq]
  refine ⟨fun loud => ?_, fun notShot notFollow => plain notFollow fun mode => absurd mode notShot,
    fun mode notCycle notCommit => plain (by rw [mode]; nofun) fun _ => ⟨notCommit, notCycle⟩,
    fun mode trigger => ⟨fun running free quiet => ?_, barred⟩,
    fun mode trigger => ⟨fun auto free holds => ?_, fun refused quiet => ?_, fun h => barred (.inr h)⟩,
    fun _ => barred, fun l mode leader later => ?_⟩
  · obtain ⟨falls, acts⟩ := Classical.not_imp.mp loud
    exact State.cycleStart_fallen own s d _ rfl falls acts
  · obtain ⟨shot, ignored⟩ :=
      State.cycleStart_cycleTrigger own s d _ rfl mode trigger running ((calmIff d).mp quiet) free
    exact (Prod.ext shot ignored).trans triggered
  · obtain ⟨shot, ignored⟩ := State.cycleStart_autoTrigger own s d _ rfl mode trigger
      ((GroupRec.accepts_auto _).trans auto) holds free
    exact (Prod.ext shot ignored).trans triggered
  · exact State.cycleStart_autoRefused own s d _ rfl mode (fun cycle => by rw [show c.config.trigger = _ from cycle] at trigger; cases trigger)
      ((GroupRec.accepts_auto _).trans refused) ((calmIff d).mp quiet)
  · intro lead leadGroup live leads running leadRuns free leadFree quiet leadQuiet
    refine (State.cycleStart_follower own s l d later mode leader leads ?_).trans ?_
    · intro e member
      rcases List.mem_pair.mp member with rfl | rfl
      · exact ⟨leadRuns, (calmIff _).mp leadQuiet, leadFree⟩
      · exact ⟨running, (calmIff _).mp quiet, free⟩
    · rw [Channel.copied_active, Channel.copied_active, Shot.start_eq]
      exact if_congr (Channel.endsOn_iff leads) rfl rfl

/-! ### The wrap (R81) and the restart by a MARK (R72, R73, R83) -/

theorem Tick.length_pos (tick : Tick) : 0 < tick.length := by
  cases tick <;> decide

/-- Settles O23. -/
theorem wrapIsACycleStart : Obligations.WrapIsACycleStart := by
  intro dt s high passed
  have ran : exec (.wrap dt) s = .next (s.after dt).wrap := by
    show execWrap dt s = _
    refine event_run high rfl (decide_eq_true ?_)
    show s.cycle.period ≤ (s.after dt).count
    unfold State.count
    rw [show (s.after dt).inReset = false from high]
    exact (Nat.le_div_iff_mul_le (Tick.length_pos _)).mpr passed
  refine ⟨_, ran, ?_⟩
  intro began
  have started : Claims.cycleStarted [] began (began.cycleStart []) := State.cycleStart_started [] began (by simp)
  refine ⟨?_, started, State.cycleStart_shots [] began⟩
  show (began.cycleStart []).count = 0
  rw [started.1]
  show (if s.inReset = true then 0 else (s.now + dt - (s.now + dt)) / s.cycle.tick.length) = 0
  rw [Nat.sub_self, Nat.zero_div, ite_self]

/-- R73: the commit requests of a MARK, for the groups that its mask and its entry's filter name. -/
theorem State.markCommits_eq (mask : GroupSet) (entry : TagEntry) (s : State) :
    s.requestCommits .mark (GroupSet.has (mask &&& entry.filter)) =
      (allGroups.filter fun g => mask.getLsbD g.val && entry.filter.getLsbD g.val).foldl
        (fun t g => t.requestCommit .mark g) s := by
  have named : GroupSet.has (mask &&& entry.filter) =
      fun g => mask.getLsbD g.val && entry.filter.getLsbD g.val := funext fun g => BitVec.getLsbD_and ..
  unfold State.requestCommits
  rw [named, List.foldl_filter]

theorem markWithoutRestartRecordsAndCommits : Claims.MarkWithoutRestartRecordsAndCommits := by
  intro number mask entry posts s plain
  have goesOn : ¬(entry.cycleSync = true ∧ s.cycle.mode = .marked) := by
    rintro ⟨sync, marked⟩
    rcases plain with sync' | free
    · rw [sync] at sync'
      cases sync'
    · rw [marked] at free
      cases free
  unfold State.handleMark State.markSync
  dsimp only
  rw [if_neg goesOn, State.markCommits_eq, State.samplerEvent_eq, Sampler.atEvent_eq, State.postAll_events,
    State.postAll_events]

theorem markRestartPrecedesItsCommits : Claims.MarkRestartPrecedesItsCommits := by
  intro number mask entry posts s sync marked others
  let n := Config.postedBeforeRestart s.draws
  let began : State := { s.postAll (posts.take n) with
    lastMark := { cycle := some number, groups := mask &&& entry.filter }
    cycle := { s.cycle with base := s.now, number := number } }
  refine ⟨posts.take n, posts.drop n, began.cycleStart (posts.drop n), (List.take_append_drop n posts).symm,
    State.cycleStart_started _ began fun q member => others q (List.mem_of_mem_drop member),
    State.cycleStart_shots _ began, ?_⟩
  have begun : (({ s with lastMark := { cycle := some number, groups := mask &&& entry.filter } } : State).postAll
      (posts.take n)).restartCount number = began := by
    unfold began State.restartCount
    rw [State.postAll_events, State.postAll_events]
  have now : (began.cycleStart (posts.drop n)).now = s.now := by
    have same : began.now = s.now := by
      unfold began
      rw [State.postAll_events]
    rw [(State.cycleStart_started _ began fun q member => others q (List.mem_of_mem_drop member)).1]
    exact same
  unfold State.handleMark State.markSync State.markRestart
  dsimp only
  rw [if_pos ⟨sync, marked⟩, State.markCommits_eq, State.samplerEvent_eq, Sampler.atEvent_eq, begun, now]

/-- Settles O26. -/
theorem marksRecordRestartAndCommit : Obligations.MarksRecordRestartAndCommit :=
  ⟨markWithoutRestartRecordsAndCommits, markRestartPrecedesItsCommits⟩

end Sys2Proof.Machine
end

section
/-!
PROOFS. The relay queue (R26, R27, R32), responses on UP (R33, R35, R36, R159), and the DOWN port (R18, R28 to R32,
R34, R35).
-/

namespace Sys2Proof.Machine

/-! ### The relay queue -/

theorem State.overrunPostings_eq (s : State) : s.overrunPostings = Claims.overrunPosts s := by
  unfold State.overrunPostings Claims.overrunPosts State.relayFull
  exact if_congr (and_congr_right fun _ => decide_eq_true_iff) rfl rfl

section
variable {s : State} {e : RelayEntry}

theorem DownPort.waits_iff {d : DownPort} : d.waits = true ↔ d.state = .sending ∧ d.cur = none := by
  unfold DownPort.waits
  rw [Bool.and_eq_true, decide_eq_true_iff, Option.isNone_iff_eq_none]

theorem State.stuckDrop_of_not_stuck (free : s.down.state ≠ .stuck) : s.stuckDrop = s := if_neg free

/-- R32: a stuck port drops nothing where no OPEN entry stands at the queue head. -/
theorem State.stuckDrops_of_head (n : Nat) (head : ∀ e, s.relay.head? = some e → e.marker ≠ .opening) :
    s.stuckDrops n = s := by
  cases n with
  | zero => rfl
  | succ n =>
    unfold State.stuckDrops
    cases queue : s.relay with
    | nil => rfl
    | cons e rest => exact if_neg (head e (by rw [queue]; rfl))

theorem State.stuckDrop_of_head (head : ∀ e, s.relay.head? = some e → e.marker ≠ .opening) : s.stuckDrop = s := by
  unfold State.stuckDrop
  rw [State.stuckDrops_of_head _ head, ite_self]

/-- R32: the frame whose OPEN entry stands at the head is dropped; and then, if need be, others. -/
theorem State.stuckDrops_of_opening {n : Nat} {rest : List RelayEntry} (queue : s.relay = e :: rest)
    (opening : e.marker = .opening) : s.stuckDrops (n + 1) = (s.countDownConflict.abandon e.frame).stuckDrops n := by
  conv => lhs; unfold State.stuckDrops
  rw [queue]
  exact if_pos opening

theorem State.joined_of_dead {value : Byte} {marker : Marker} (dead : s.fc.relay ≠ some .live) :
    s.joined value marker = s := if_neg dead

theorem State.joined_of_full {value : Byte} {marker : Marker} (alive : s.fc.relay = some .live)
    (full : 32 ≤ s.relay.length) : s.joined value marker = s.abandon s.fc.id := by
  unfold State.joined State.relayFull
  rw [if_pos alive, if_pos (decide_eq_true full)]

theorem State.joined_of_live {value : Byte} {marker : Marker} (alive : s.fc.relay = some .live)
    (room : s.relay.length < 32) : s.joined value marker =
      s.enqueue { value := value, marker := marker, frame := s.fc.id } := by
  unfold State.joined State.relayFull
  rw [if_pos alive, if_neg (by simpa using room)]

theorem State.enqueue_of_waiting (waiting : s.down.waits = true) :
    s.enqueue e = ({ s with relay := s.relay ++ [e] } : State).downNext := if_pos waiting

theorem State.enqueue_of_busy (busy : ¬s.down.waits = true) :
    s.enqueue e = ({ s with relay := s.relay ++ [e] } : State).stuckDrop := if_neg busy

end

/-- R28: an entry of the abandoned frame itself leaves with the others. -/
theorem State.abandon_of_joined (e : RelayEntry) (s : State) :
    ({ s with relay := s.relay ++ [e] } : State).abandon e.frame = s.abandon e.frame := by
  have drops : ({ s with relay := s.relay ++ [e] } : State).dropEntries e.frame = s.dropEntries e.frame := by
    unfold State.dropEntries
    dsimp only
    rw [List.filter_append, List.filter_cons_of_neg (by simp), List.filter_nil, List.append_nil]
  unfold State.abandon
  rw [drops]

/-- Settles O13. -/
theorem headSentByteJoinsTheRelayQueue : Obligations.HeadSentByteJoinsTheRelayQueue := by
  intro value marker s entry queued t
  refine ⟨?_, State.joined_of_dead, fun alive room free busy => ?_, fun alive empty sending noByte own => ?_,
    State.joined_of_full, fun alive empty stuck opening => ?_, fun alive room stuck head => ?_⟩
  · rw [← State.overrunPostings_eq]
    rfl
  · refine (State.joined_of_live alive room).trans ((State.enqueue_of_busy (mt DownPort.waits_iff.mp busy)).trans ?_)
    exact State.stuckDrop_of_not_stuck free
  · have room : s.relay.length < 32 := by rw [empty]; decide
    refine (State.joined_of_live alive room).trans
      ((State.enqueue_of_waiting (DownPort.waits_iff.mpr ⟨sending, noByte⟩)).trans ?_)
    have queue : s.relay ++ [entry] = [entry] := by rw [empty]; rfl
    unfold State.downNext
    dsimp only
    rw [queue]
    dsimp only
    rw [if_pos own.symm, ← empty, ← sending]
  · have room : s.relay.length < 32 := by rw [empty]; decide
    have busy : ¬s.down.waits = true := fun waits => by
      rw [(DownPort.waits_iff.mp waits).1] at stuck
      cases stuck
    have queue : queued.relay = entry :: [] := by
      show s.relay ++ [entry] = _
      rw [empty]
      rfl
    refine (State.joined_of_live alive room).trans ((State.enqueue_of_busy busy).trans ?_)
    have drops : queued.stuckDrop = queued.stuckDrops 1 := by
      unfold State.stuckDrop
      rw [queue]
      exact if_pos stuck
    refine drops.trans ((State.stuckDrops_of_opening queue opening).trans ?_)
    exact State.abandon_of_joined entry s.countDownConflict
  · have busy : ¬s.down.waits = true := fun waits => by
      rw [(DownPort.waits_iff.mp waits).1] at stuck
      cases stuck
    exact (State.joined_of_live alive room).trans ((State.enqueue_of_busy busy).trans (State.stuckDrop_of_head head))

/-! ### Responses on UP -/

theorem upByteSent_run {dt : Time} {sent : UpByte} {s : State} (high : s.inReset = false) (busy : s.up.tx = some sent)
    (due : 10 * sent.span ≤ 7 * (s.now + dt - sent.since)) (goesOn : (s.after dt).deliverable = false) :
    exec (.upByteSent dt) s = .next (s.after dt).afterUpByte := by
  have tx : (s.after dt).up.tx = some sent := busy
  have lasted : (s.after dt).upByteLasted 20 = true := by
    unfold State.upByteLasted
    rw [tx]
    refine decide_eq_true ?_
    show 20 * sent.span ≤ 14 * (s.now + dt - sent.since)
    simp only [Time] at *
    omega
  show execUpByteSent dt s = _
  unfold execUpByteSent
  rw [live_high high, tx, lasted, goesOn]
  rfl

theorem State.deliverable_eq {s : State} {sent : UpByte} (busy : s.up.tx = some sent) : s.deliverable =
    (decide (sent.marker = .ending) && (decide (s.fc.state = .responding) ||
      (decide (s.fc.state = .relayResponse) && decide (s.fc.relayAgrees = some true)))) := by
  unfold State.deliverable
  rw [busy]
  rfl

theorem ownResponseIsSentByteByByte : Claims.OwnResponseIsSentByteByByte := by
  intro dt b rest s high state resp sending
  have sent : (s.after dt).sendOwn = sending := by
    unfold State.sendOwn
    rw [show (s.after dt).up.resp = b :: rest from resp]
    dsimp only
    simp only [List.isEmpty_iff]
    rfl
  refine ⟨fun free due => ?_, fun byte busy marker due => ?_⟩
  · show execOwnResponseStart dt s = _
    refine (event_run high ?_ (decide_eq_true due)).trans (congrArg Host.Outcome.next sent)
    show (decide (s.fc.state = .responding) && s.up.tx.isNone && !s.up.resp.isEmpty) = true
    rw [state, free, resp]
    rfl
  · refine (upByteSent_run high busy due ?_).trans (congrArg Host.Outcome.next ?_)
    · rw [State.deliverable_eq (s := s.after dt) busy, decide_eq_false marker]
      rfl
    · unfold State.afterUpByte
      rw [show (s.after dt).fc.state = .responding from state]
      exact sent

theorem relayedResponseFollowsTheQueue : Claims.RelayedResponseFollowsTheQueue := by
  intro dt sent s high state busy due agrees later failed
  have tx : (s.after dt).up.tx = some sent := busy
  refine (upByteSent_run high busy due ?_).trans (congrArg Host.Outcome.next ?_)
  · rw [State.deliverable_eq tx, Bool.and_eq_false_imp]
    intro marker
    rw [show (s.after dt).fc.state = .relayResponse from state,
      show (s.after dt).fc.relayAgrees = s.fc.relayAgrees from rfl,
      decide_eq_false (agrees (of_decide_eq_true marker))]
    rfl
  · have after : (s.after dt).afterUpByte =
        if (decide (sent.marker = .ending) || (s.relay.isEmpty && s.fc.relayEnded)) = true then failed
        else (s.after dt).relayNext := by
      unfold State.afterUpByte
      rw [show (s.after dt).fc.state = .relayResponse from state, tx]
      rfl
    rw [after]
    by_cases marker : sent.marker = .ending
    · rw [decide_eq_true marker, if_pos marker]
      rfl
    · rw [decide_eq_false marker, if_neg marker, Bool.false_or]
      unfold State.relayNext
      rw [show (s.after dt).relay = s.relay from rfl]
      cases queue : s.relay with
      | nil => rfl
      | cons e rest => rfl

theorem upDriverSendsTheByteInProgress : Claims.UpDriverSendsTheByteInProgress := by
  intro s
  unfold State.upDrive
  refine ⟨fun sent busy => by rw [busy], fun free => by rw [free], ?_⟩
  cases s.up.tx <;> nofun

/-- Settles O15. -/
theorem responsesAreSentByteByByte : Obligations.ResponsesAreSentByteByByte :=
  ⟨ownResponseIsSentByteByByte, relayedResponseFollowsTheQueue, upDriverSendsTheByteInProgress⟩

/-! ### Delivered and cut responses -/

theorem State.acceptFrame_eq (tag : Tag) (generation : Byte) (s : State) :
    s.acceptFrame tag generation = Claims.accepted tag s.tags.runtime[tag].lastSeq generation s := rfl

theorem servedAfter_read (seqs : List (Option Byte)) (served : Vector (Option Byte) 8) (i : Fin 8) :
    (servedAfter seqs served)[i] = if h : i.val < seqs.length then seqs[i.val] else served[i] := by
  have entry : (servedAfter seqs served)[i] = (seqs[i.val]?).getD served[i] := by
    match i with
    | 0 | 1 | 2 | 3 | 4 | 5 | 6 | 7 => rfl
  rw [entry]
  split
  · rename_i inside
    rw [List.getElem?_eq_getElem inside]
    rfl
  · rename_i outside
    rw [List.getElem?_eq_none (Nat.not_lt.mp outside)]
    rfl

section
variable {own : Bool} {s : State}

theorem State.deliveredEffect_of_reply {station : Fin 16} (head : s.fc.head = some (.mgmt .reply station)) :
    s.deliveredEffect own = s := by
  unfold State.deliveredEffect
  rw [head]

theorem State.deliveredEffect_of_get {tag : Tag} {c : EntryCopy} (head : s.fc.head = some (.tagged .get tag))
    (copy : s.fc.copy = some c) : s.deliveredEffect own =
      if s.fc.noLocal then s
      else if own then (s.served c.entry.buffer).acceptFrame tag c.generation
      else s.acceptFrame tag c.generation := by
  unfold State.deliveredEffect
  rw [head, copy]

end

/-- Settles O16. -/
theorem deliveredResponsePassesAndIsRecorded : Obligations.DeliveredResponsePassesAndIsRecorded := by
  intro dt sent s high busy marker due states p
  have ran : exec (.responseDelivered dt) s = .next (s.after dt).deliver := by
    show execResponseDelivered dt s = _
    refine event_run high ?_ ?_
    · rw [State.deliverable_eq (s := s.after dt) busy, decide_eq_true marker]
      rcases states with state | ⟨state, agrees⟩
      · rw [show (s.after dt).fc.state = .responding from state]
        rfl
      · rw [show (s.after dt).fc.state = .relayResponse from state, show (s.after dt).fc.relayAgrees = some true from agrees]
        rfl
    · unfold State.upByteLasted
      rw [show (s.after dt).up.tx = some sent from busy]
      exact decide_eq_true due
  have delivered : (s.after dt).deliver = p.deliveredEffect (decide (s.fc.state = .responding)) := rfl
  have fc : p.fc = { s.fc with state := .done, outcome := some .sent } := by
    simp [p, Claims.passed, Claims.counted]
  have tags : p.tags = s.tags := by simp [p, Claims.passed, Claims.counted]
  have publish : p.publish = s.publish := by simp [p, Claims.passed, Claims.counted]
  clear_value p
  rw [ran, delivered]
  refine ⟨fun station reply => ?_, fun tag c get copy marked => ?_, fun tag c get copy acts => ?_⟩
  · rw [State.deliveredEffect_of_reply (by rw [fc]; exact reply)]
  · rw [State.deliveredEffect_of_get (by rw [fc]; exact get) (by rw [fc]; exact copy), fc, marked]
    rfl
  · intro a
    have effect (own : Bool) : p.deliveredEffect own =
        if own then (p.served c.entry.buffer).acceptFrame tag c.generation else p.acceptFrame tag c.generation := by
      rw [State.deliveredEffect_of_get (by rw [fc]; exact get) (by rw [fc]; exact copy), fc, acts]
      rfl
    refine ⟨fun relays => ?_, fun responds => ?_⟩
    · rw [effect, decide_eq_false (by rw [relays]; nofun)]
      show Host.Outcome.next (p.acceptFrame tag c.generation) = _
      rw [State.acceptFrame_eq, tags]
    · refine ⟨servedAfter s.publish.records[c.entry.buffer].snapshotSeqs s.publish.records[c.entry.buffer].served, ?_,
        servedAfter_read _ _⟩
      have served : (p.served c.entry.buffer).acceptFrame tag c.generation =
          { Claims.accepted tag p.tags.runtime[tag].lastSeq c.generation p with publish := { p.publish with
            records := p.publish.records.set c.entry.buffer p.publish.records[c.entry.buffer].delivered } } := rfl
      have kept : a.publish = s.publish := publish
      rw [effect, decide_eq_true responds, if_pos rfl, served, tags, publish, kept]
      rfl

/-- R36: the state in which a conflict ends the response, but for what it means for a publish buffer or a relay. -/
def State.cutOff (s : State) : State :=
  { s with
    fc := { s.fc with state := .done, outcome := some .conflict }
    up := { s.up with
      tx := none, resp := [], rx := .lowSeen s.lowNow
      counts := { s.up.counts with conflict := satInc s.up.counts.conflict } }
    events := s.events.post s.cycle.number
      { code := .upConflict, subject := .port .up, detail := addrDetail s.fc.addr } }

theorem State.conflict_of_relay {s : State} (relays : s.fc.state = .relayResponse) :
    s.conflict = s.cutOff.abandon s.fc.id := by
  have notOwn : ¬s.fc.state = .responding := by
    rw [relays]
    nofun
  unfold State.conflict
  rw [if_neg notOwn]
  exact if_pos relays

theorem State.cutServe_eq (s : State) : s.cutServe = { s with publish := s.cutServe.publish } := by
  unfold State.cutServe
  split <;> rfl

theorem State.conflict_of_own {s : State} (responds : s.fc.state = .responding) :
    s.conflict = { s.cutOff with publish := s.cutServe.publish } := by
  have notRelay : ¬s.fc.state = .relayResponse := by
    rw [responds]
    nofun
  unfold State.conflict
  rw [if_pos responds]
  dsimp only
  rw [if_neg notRelay, State.cutServe_eq]
  rfl

/-- Settles O17. -/
theorem upConflictEndsTheResponse : Obligations.UpConflictEndsTheResponse := by
  intro dt s high ended
  have ran (answers : s.fc.state = .responding ∨ s.fc.state = .relayResponse) :
      exec (.upConflict dt) s = .next (s.after dt).conflict := by
    show execUpConflict dt s = _
    refine happens_run high ?_
    show (decide (s.fc.state = .responding) || decide (s.fc.state = .relayResponse)) = true
    rcases answers with state | state <;> rw [state] <;> rfl
  have cut : (s.after dt).cutOff = ended := rfl
  have own (responds : s.fc.state = .responding) :
      exec (.upConflict dt) s = .next { ended with publish := (s.after dt).cutServe.publish } := by
    rw [ran (.inl responds), State.conflict_of_own (s := s.after dt) responds, cut]
  refine ⟨fun relays => ?_, fun station responds reply => ?_, fun tag c responds get copy => ?_⟩
  · rw [ran (.inr relays), State.conflict_of_relay (s := s.after dt) relays, cut]
    rfl
  · have serves : (s.after dt).cutServe = s.after dt := by
      unfold State.cutServe
      rw [show (s.after dt).fc.head = some (.mgmt .reply station) from reply]
    rw [own responds, serves]
    rfl
  · have serves : (s.after dt).cutServe = (s.after dt).serveCut c.entry.buffer := by
      unfold State.cutServe
      rw [show (s.after dt).fc.head = some (.tagged .get tag) from get, show (s.after dt).fc.copy = some c from copy]
    rw [own responds, serves]
    rfl

end Sys2Proof.Machine
end

section
/-!
PROOFS. The DOWN port: the frames it regenerates, conflicts and foreign lows, and the responses it relays (R18, R28 to
R32, R34, R35).
-/

namespace Sys2Proof.Machine

/-! ### Regeneration (R29, R30) -/

theorem State.downIs_iff {st : DownState} {s : State} : s.downIs st = true ↔ s.down.state = st := by
  unfold State.downIs
  rw [decide_eq_true_iff]

theorem downPortRegeneratesTheFrameStart : Claims.DownPortRegeneratesTheFrameStart := by
  intro dt s high
  refine ⟨fun e rest idle high' queue opening => ?_, fun breaks due => ?_, fun delimits due => ?_⟩
  · show execRegenerationStart dt s = _
    refine (happens_run high ?_).trans (congrArg Host.Outcome.next ?_)
    · show (decide (s.down.state = .idle) && s.down.low.isNone && s.relay.head?.any fun e => decide (e.marker = .opening)) = true
      rw [idle, high', queue]
      exact decide_eq_true opening
    · unfold State.regenerate
      split
      · rename_i empty
        cases queue.symm.trans empty
      · rename_i here
        cases queue.symm.trans here
        rfl
  · show execDownBreakEnd dt s = _
    refine (event_run high (State.downIs_iff.mpr breaks) (decide_eq_true due)).trans (congrArg Host.Outcome.next ?_)
    unfold State.downThen
    rw [show (s.after dt).down.abandoned = s.down.abandoned from rfl]
    split <;> rfl
  · show execDelimiterEnd dt s = _
    exact event_run high (State.downIs_iff.mpr delimits) (decide_eq_true due)

theorem downPortSendsEntryAfterEntry : Claims.DownPortSendsEntryAfterEntry := by
  intro dt s high due later idle after
  have next : (s.after dt).downThen State.downNext = after := rfl
  have ran (sends : (s.after dt).downSending = true) : exec (.downByteSent dt) s = .next (s.after dt).afterDownByte := by
    show execDownByteSent dt s = _
    exact event_run high sends (decide_eq_true due)
  refine ⟨fun rate noByte => ?_, fun e sending cur => ?_⟩
  · rw [ran (by unfold State.downSending; rw [(State.downIs_iff (s := s.after dt)).mpr rate]; rfl), ← next]
    unfold State.afterDownByte
    rw [show (s.after dt).down.cur = none from noByte]
  · have sends : (s.after dt).downSending = true := by
      unfold State.downSending
      rw [(State.downIs_iff (s := s.after dt)).mpr sending, show (s.after dt).down.cur = some e from cur]
      exact Bool.or_true _
    have byte (next : State → State) (marker : (match e.marker with
        | .ending => State.downThen State.downComplete
        | .turn => State.downThen (State.startListen e.value)
        | .opening => State.downThen State.downNext
        | .body => State.downThen State.downNext) = next) : (s.after dt).afterDownByte = next (s.after dt) := by
      subst marker
      unfold State.afterDownByte
      rw [show (s.after dt).down.cur = some e from cur]
      dsimp only
      cases e.marker <;> rfl
    refine ⟨fun marker => ?_, fun marker => ?_, fun marker => ?_⟩
    · rw [ran sends, byte (State.downThen State.downNext) (by rcases marker with marker | marker <;> rw [marker]), next]
    · rw [ran sends, byte (State.downThen State.downComplete) (by rw [marker])]
      unfold State.downThen
      rw [show (s.after dt).down.abandoned = s.down.abandoned from rfl]
      cases s.down.abandoned <;> rfl
    · rw [ran sends, byte (State.downThen (State.startListen e.value)) (by rw [marker])]
      unfold State.downThen
      rw [show (s.after dt).down.abandoned = s.down.abandoned from rfl]
      cases s.down.abandoned <;> rfl

theorem downDriverFollowsThePortState : Claims.DownDriverFollowsThePortState := by
  intro s
  unfold State.downDrive
  refine ⟨fun state => by rw [state], fun state => by rw [state], fun state => ⟨fun e cur => ?_, fun cur => ?_⟩, fun quiet => ?_⟩
  · rw [state, cur]
  · rw [state, cur]
  · simp only [List.mem_cons, List.not_mem_nil, or_false] at quiet
    rcases quiet with state | state | state | state | state | state <;> rw [state]

/-- Settles O18. -/
theorem downPortRegeneratesTheRelayQueue : Obligations.DownPortRegeneratesTheRelayQueue :=
  ⟨downPortRegeneratesTheFrameStart, downPortSendsEntryAfterEntry, downDriverFollowsThePortState⟩

/-! ### Conflicts and foreign lows (R31, R32) -/

theorem State.dropRelay_eq (n : Nat) (s : State) : s.dropRelay n = { s with fc := (s.dropRelay n).fc } := by
  unfold State.dropRelay
  split
  · split <;> rfl
  · rfl

theorem downConflictAbandonsTheFrame : Claims.DownConflictAbandonsTheFrame := by
  intro dt s high state
  have ran : exec (.downConflict dt) s = .next (s.after dt).downConflict := by
    show execDownConflict dt s = _
    refine happens_run high ?_
    show (decide (s.down.state = .delimiter) || decide (s.down.state = .rate) || decide (s.down.state = .sending)) = true
    simp only [List.mem_cons, List.not_mem_nil, or_false] at state
    rcases state with state | state | state <;> rw [state] <;> rfl
  let dropped : State := ((s.after dt).dropEntries s.down.frame).dropRelay s.down.frame
  have frame : dropped = { s with
      now := s.now + dt, relay := s.relay.filter (fun e => e.frame != s.down.frame), fc := dropped.fc } :=
    State.dropRelay_eq _ _
  have fc : dropped.fc = (if s.fc.id ≠ s.down.frame then s.fc
      else if s.fc.state = .relayResponse then { s.fc with
        relay := s.fc.relay.map fun _ => .dropped, state := .done, outcome := some .relayFailed }
      else { s.fc with relay := s.fc.relay.map fun _ => .dropped }) := by
    unfold dropped State.dropRelay
    rw [show ((s.after dt).dropEntries s.down.frame).fc = s.fc from rfl]
    by_cases own : s.fc.id = s.down.frame
    · rw [if_pos own, if_neg (not_not.mpr own)]
      split <;> rfl
    · rw [if_neg own, if_pos own]
      rfl
  have whole : (s.after dt).downConflict = { dropped with
      down := { dropped.down with
        state := .foreignLow, cur := none, abandoned := false, low := some (s.after dt).lowNow
        counts := { dropped.down.counts with conflict := satInc dropped.down.counts.conflict } }
      events := dropped.events.post dropped.cycle.number
        { code := .downConflict, subject := .port .down, detail := .byte s.down.addr } } := rfl
  generalize dropped.fc = left at frame fc
  rw [frame] at whole
  generalize (s.after dt).downConflict = t at ran whole
  subst whole
  exact ⟨_, ran, rfl, List.filter_congr fun e _ => by simp [bne, beq_eq_decide], fc, rfl, rfl⟩

/-! ### The stuck port (R32) -/

theorem State.abandon_stuck {n : Nat} {s : State} (stuck : s.down.state = .stuck) : (s.abandon n).down = s.down := by
  rw [State.abandon_down, DownPort.giveUp_of_free (by rw [stuck]; decide), ite_self]

/-- R32: a stuck port drops frames until no OPEN entry stands at the queue head. -/
theorem State.stuckDrops_spec (n : Nat) (s : State) (stuck : s.down.state = .stuck) (bound : s.relay.length ≤ n) :
    (s.stuckDrops n).events = s.events ∧ (s.stuckDrops n).down.state = .stuck ∧
      ∀ e, (s.stuckDrops n).relay.head? = some e → e.marker ≠ .opening := by
  induction n generalizing s with
  | zero =>
    have empty : s.relay = [] := List.length_eq_zero_iff.mp (Nat.le_zero.mp bound)
    refine ⟨rfl, stuck, fun e head => ?_⟩
    rw [show s.stuckDrops 0 = s from rfl, empty] at head
    cases head
  | succ n ih =>
    by_cases opens : ∃ e rest, s.relay = e :: rest ∧ e.marker = .opening
    · obtain ⟨e, rest, queue, opening⟩ := opens
      rw [State.stuckDrops_of_opening queue opening]
      obtain ⟨events, state, head⟩ := ih (s.countDownConflict.abandon e.frame)
        (by rw [State.abandon_stuck (s := s.countDownConflict) stuck]; exact stuck) (by
          rw [State.abandon_relay, show s.countDownConflict.relay = e :: rest from queue,
            List.filter_cons_of_neg (by simp)]
          rw [queue, List.length_cons] at bound
          exact (List.length_filter_le _ _).trans (Nat.le_of_succ_le_succ bound))
      exact ⟨events.trans (by simp), state, head⟩
    · have head : ∀ e, s.relay.head? = some e → e.marker ≠ .opening := by
        intro e first opening
        obtain ⟨rest, queue⟩ := List.head?_eq_some_iff.mp first
        exact opens ⟨e, rest, queue, opening⟩
      rw [State.stuckDrops_of_head _ head]
      exact ⟨rfl, stuck, head⟩

theorem foreignLowOnDownIsTimed : Claims.ForeignLowOnDownIsTimed := by
  intro dt s high
  refine ⟨fun length idle wire began => ?_, fun length low idle timed since => ?_, fun low state timed => ?_⟩
  · show execForeignLow ⟨dt, length⟩ s = _
    refine (happens_run high ?_).trans (congrArg Host.Outcome.next ?_)
    · rw [(State.downIs_iff (s := s.after dt)).mpr idle, Bool.true_and]
      unfold State.foreignFits
      rw [show (s.after dt).down.low = none from wire]
      dsimp only
      rcases began with zero | ⟨t, heard, early⟩
      · rw [decide_eq_true zero]
        rfl
      · rw [show (s.after dt).down.heardFrom = some t from heard]
        exact (congrArg _ (decide_eq_true early)).trans (Bool.or_true _)
    · unfold State.foreignBegins
      rw [show (s.after dt).down.low = none from wire]
      rfl
  · show execForeignLow ⟨dt, length⟩ s = _
    refine (happens_run high ?_).trans (congrArg Host.Outcome.next ?_)
    · rw [(State.downIs_iff (s := s.after dt)).mpr idle, Bool.true_and]
      unfold State.foreignFits
      rw [show (s.after dt).down.low = some low from timed]
      exact decide_eq_true since
    · unfold State.foreignBegins
      rw [show (s.after dt).down.low = some low from timed]
      rfl
  · have meets (test : LowTimer → Time → Bool) : (s.after dt).foreignIs test = test low (s.now + dt) := by
      unfold State.foreignIs State.downIs
      rw [show (s.after dt).down.low = some low from timed]
      rcases state with state | state <;> rw [show (s.after dt).down.state = _ from state] <;> rfl
    intro n
    refine ⟨?_, ?_, fun long => ?_⟩
    · show execForeignLowIgnored dt s = _
      split
      · rename_i short
        exact happens_run high ((meets _).trans (decide_eq_true short))
      · rename_i short
        exact happens_refused high ((meets _).trans (decide_eq_false short))
    · show execDownBreak dt s = _
      have isBreak : (s.after dt).foreignIs LowTimer.isBreak = decide (13 * low.tbit ≤ n ∧ n ≤ 200 * low.tbit) := by
        rw [meets, Bool.decide_and]
        rfl
      split
      · rename_i inside
        exact happens_run high (isBreak.trans (decide_eq_true inside))
      · rename_i outside
        exact happens_refused high (isBreak.trans (decide_eq_false outside))
    · intro stuck
      have ran : exec (.lineStuck dt .down) s = .next stuck.stuckDrop := by
        show execLineStuck dt .down s = _
        refine event_run high ?_ ?_
        · show (s.after dt).down.low.isSome = true
          rw [show (s.after dt).down.low = some low from timed]
          rfl
        · show ((s.after dt).down.low.any fun low => low.isStuck (s.after dt).now) = true
          rw [show (s.after dt).down.low = some low from timed]
          exact decide_eq_true long
      have drops : stuck.stuckDrop = stuck.stuckDrops stuck.relay.length := if_pos rfl
      refine ⟨fun head => ?_, fun e rest queue opening next => ?_, ?_⟩
      · rw [ran, State.stuckDrop_of_head (s := stuck) head]
      · have count : stuck.relay.length = rest.length + 1 := congrArg List.length queue
        rw [ran, drops, count, State.stuckDrops_of_opening (s := stuck) queue opening]
        refine congrArg Host.Outcome.next (State.stuckDrops_of_head _ fun e' first => next e' ?_)
        rw [State.abandon_relay, show stuck.countDownConflict.relay = e :: rest from queue,
          List.filter_cons_of_neg (by simp)] at first
        exact first
      · obtain ⟨events, state, head⟩ := State.stuckDrops_spec stuck.relay.length stuck rfl le_rfl
        rw [← drops] at events state head
        exact ⟨_, ran, events, state, head⟩

/-- Settles O19. -/
theorem downLineDisturbances : Obligations.DownLineDisturbances :=
  ⟨downConflictAbandonsTheFrame, foreignLowOnDownIsTimed⟩

/-! ### Relayed responses (R34, R35) -/

theorem responseByte_run {dt : Time} {last : Bool} {s : State} {f : State → State} (high : s.inReset = false)
    (reads : s.down.state = .listen ∨ s.down.state = .receive) (left : decide (s.down.respLeft = 0) = last)
    (inTime : (s.after dt).responseLate = false) : responseByte dt last s f = .next (f (s.after dt)) := by
  have place : (!(s.after dt).downReads || decide ((s.after dt).down.respLeft = 0) != last) = false := by
    rw [show decide ((s.after dt).down.respLeft = 0) = last from left]
    unfold State.downReads State.downIs
    rcases reads with state | state <;> rw [show (s.after dt).down.state = _ from state] <;> simp
  unfold responseByte
  rw [live_high high, place, inTime]
  rfl

/-- R35: a response byte joins the queue, or begins on UP at once. -/
theorem State.joinUp_eq (value : Byte) (marker : Marker) (s : State) (room : s.relay.length < 32) :
    s.joinUp value marker =
      if s.up.tx ≠ none then { s with relay := s.relay ++ [{ value := value, marker := marker, frame := s.fc.id }] }
      else match s.relay with
        | [] => { s with up := { s.up with tx := some {
            value := value, marker := marker, since := s.now, span := s.fc.span.getD 0 } } }
        | e :: rest => { s with
            relay := rest ++ [{ value := value, marker := marker, frame := s.fc.id }],
            up := { s.up with tx := some {
              value := e.value, marker := e.marker, since := s.now, span := s.fc.span.getD 0 } } } := by
  unfold State.joinUp State.relayFull
  rw [if_neg (by simpa using room)]
  dsimp only
  by_cases free : s.up.tx = none
  · rw [if_neg (not_not.mpr free), free]
    obtain ⟨now, draws, frames, inReset, straps, up, fc, relay⟩ := s
    cases relay <;> rfl
  · rw [if_pos free, if_neg (by rwa [Option.isNone_iff_eq_none])]

/-- Settles O20. -/
theorem downResponseBytesAreRelayed : Obligations.DownResponseBytesAreRelayed := by
  intro dt value s high room inTime relayed agrees
  have reads : s.down.state = .listen ∨ s.down.state = .receive := inTime.imp And.left And.left
  have onTime : (s.after dt).responseLate = false := by
    unfold State.responseLate State.downIs limitPassed
    show (if decide (s.down.state = .listen) = true then decide (43 * s.down.tbit + 2 ≤ 2 * (s.now + dt - s.down.since))
      else decide (13 * s.down.tbit < s.now + dt - s.down.since)) = false
    rcases inTime with ⟨state, early⟩ | ⟨state, early⟩
    · rw [state]
      exact decide_eq_false (Nat.not_le.mpr early)
    · rw [state]
      exact decide_eq_false (Nat.not_lt.mpr early)
  refine ⟨fun more => ?_, fun last => ?_⟩
  · show execDownResponseByte dt value s = _
    refine (responseByte_run high reads (decide_eq_false (Nat.pos_iff_ne_zero.mp more)) onTime).trans
      (congrArg Host.Outcome.next ?_)
    exact State.joinUp_eq value .body _ room
  · show execDownResponseCheck dt value s = _
    refine (responseByte_run high reads (decide_eq_true last) onTime).trans (congrArg Host.Outcome.next ?_)
    exact State.joinUp_eq value .ending _ room

theorem responseTimeoutEndsTheRelay : Claims.ResponseTimeoutEndsTheRelay := by
  intro dt s high listens due
  show execRespTimeout dt s = _
  refine (event_run high ((State.downIs_iff (s := s.after dt)).mpr listens) (decide_eq_true due)).trans
    (congrArg Host.Outcome.next ?_)
  have waits : (s.after dt).unanswered = { s.after dt with
      fc := if s.fc.id = s.down.frame ∧ s.fc.state = .relayResponse then
        { s.fc with state := .done, outcome := some .unanswered } else s.fc } := by
    unfold State.unanswered
    rw [show (s.after dt).fc = s.fc from rfl, show (s.after dt).down = s.down from rfl]
    split <;> rfl
  unfold State.respTimeout
  rw [waits]
  rfl

/-- R35: the relay ends early; the UP frame ends with it where nothing is left to send. -/
theorem State.endResponse_eq (s : State) : s.endResponse = { s with
    fc := if s.fc.state = .relayResponse ∧ s.relay = [] then
      { s.fc with relayEnded := true, state := .done, outcome := some .relayFailed } else { s.fc with relayEnded := true }
    down := { s.down with state := .idle } } := by
  unfold State.endResponse
  split <;> rfl

theorem downResponseFaultsEndTheRelay : Claims.DownResponseFaultsEndTheRelay := by
  intro dt s high ended reads since window
  have reading (h : reads) : (s.after dt).downReads = true := by
    unfold State.downReads State.downIs
    rcases h with state | state <;> rw [show (s.after dt).down.state = _ from state] <;> rfl
  have limit : (s.after dt).responseWindow * (s.after dt).down.tbit = window := by
    unfold State.responseWindow State.downIs window
    simp only [decide_eq_true_eq]
    rfl
  refine ⟨fun elapsed length here short within came inTime stop covers => ?_, fun receives due => ?_,
    fun length here within inTime isBreak => ?_⟩
  · show execDownResponseFraming ⟨dt, elapsed, length⟩ s = _
    have fits : (s.after dt).responseStopFits ⟨dt, elapsed, length⟩ = true := by
      unfold State.responseStopFits
      simp only [Bool.and_eq_true, decide_eq_true_eq]
      exact ⟨⟨⟨short, within⟩, came⟩, covers⟩
    have onTime : ¬(s.after dt).responseWindow * (s.after dt).down.tbit + 2 * elapsed <
        2 * ((s.after dt).now - (s.after dt).down.since) := by
      rw [limit]
      exact Nat.not_lt.mpr inTime
    have notDue : ¬2 * elapsed < 19 * (s.after dt).down.tbit := Nat.not_lt.mpr stop
    unfold execDownResponseFraming
    rw [live_high high]
    dsimp only
    rw [reading here, fits, if_neg (by simp), if_neg notDue, if_neg onTime]
    refine congrArg Host.Outcome.next ((State.endResponse_eq _).trans ?_)
    rfl
  · show execDownResponseGap dt s = _
    refine (event_run high ((State.downIs_iff (s := s.after dt)).mpr receives) (decide_eq_true due)).trans
      (congrArg Host.Outcome.next ((State.endResponse_eq _).trans ?_))
    rfl
  · show execDownResponseBreak ⟨dt, length⟩ s = _
    have place : (!(s.after dt).downReads || decide ((s.after dt).now - (s.after dt).down.since < length)) = false := by
      have heard : ¬(s.after dt).now - (s.after dt).down.since < length := Nat.not_lt.mpr within
      rw [reading here, decide_eq_false heard]
      rfl
    have onTime : (s.after dt).responseLowLate length = false := by
      unfold State.responseLowLate
      rw [Nat.add_mul, limit]
      exact decide_eq_false (Nat.not_lt.mpr inTime)
    have notDue : ¬length < 13 * (s.after dt).nominal := Nat.not_lt.mpr isBreak
    unfold execDownResponseBreak
    rw [live_high high]
    dsimp only
    rw [place, onTime, if_neg (by simp), if_neg notDue, if_neg (by simp)]
    refine congrArg Host.Outcome.next ?_
    unfold State.responseBreak
    rw [State.endResponse_eq]
    rfl

/-- Settles O21. -/
theorem downResponseEndings : Obligations.DownResponseEndings :=
  ⟨responseTimeoutEndsTheRelay, downResponseFaultsEndTheRelay⟩

end Sys2Proof.Machine
end

section
/-!
PROOFS. The byte under way on UP (R5 to R7, R13, R14): its start edge, its windows, its rate and its stop cell, as the
statements name them; and a byte that completes in time.
-/

namespace Sys2Proof.Machine

section
variable {dt : Time} {s : State} {b : StartEdge}

/-! ### The start edge (R5) -/

theorem FrameContext.awaitsResponse_iff {fc : FrameContext} :
    fc.awaitsResponse = true ↔ fc.answer = some .listen ∧ fc.data = [] := by
  unfold FrameContext.awaitsResponse
  rw [Bool.and_eq_true, decide_eq_true_iff, List.isEmpty_iff]

theorem State.cellPace_after : (s.after dt).cellPace = Claims.sevenTbit s := by
  unfold State.cellPace Claims.sevenTbit
  rw [show (s.after dt).fc = s.fc from rfl]
  cases s.fc.state <;> rfl

theorem State.upLow_iff {low : LowTimer} : s.upLow = some low ↔ s.up.rx = .lowSeen low := by
  unfold State.upLow
  cases s.up.rx <;> simp

theorem State.upLow_any {p : LowTimer → Bool} : s.upLow.any p = true ↔ ∃ low, s.up.rx = .lowSeen low ∧ p low = true := by
  simp only [Option.any_eq_true, State.upLow_iff]

/-- The start edge of the byte under way, when its start cell may have been read. -/
def readBy (dt : Time) (s : State) (b : StartEdge) : StartEdge :=
  { b with read := b.read || decide (Claims.sevenTbit s ≤ 14 * (s.now + dt - b.edge)) }

theorem State.startNow_of_stands (start : s.up.start = some b) (stands : Claims.stands dt s b) :
    (s.after dt).startNow = some (readBy dt s b) := by
  unfold State.startNow readBy
  rw [show (s.after dt).up.start = some b from start, State.cellPace_after]
  show (if (b.read || decide (14 * (s.now + dt - b.edge) < Claims.sevenTbit s)) = true then some b else _) = _
  by_cases ahead : 14 * (s.now + dt - b.edge) < Claims.sevenTbit s
  · rw [decide_eq_true ahead, decide_eq_false (Nat.not_le.mpr ahead), Bool.or_true, Bool.or_false]
    rfl
  · rw [decide_eq_false ahead, decide_eq_true (Nat.not_lt.mp ahead), Bool.or_true, Bool.or_false]
    obtain ⟨edge, read, falls⟩ := b
    cases read
    · rcases stands with read | early | ⟨low, timed, began⟩
      · cases read
      · exact absurd early ahead
      · have covered : ((s.after dt).upLow.any fun low => decide (14 * (low.since - edge) ≤ Claims.sevenTbit s)) = true :=
          State.upLow_any.mpr ⟨low, timed, decide_eq_true began⟩
        exact (if_neg (by simp)).trans (if_pos covered)
    · rfl

theorem State.startNow_of_gone (gone : ∀ b, s.up.start = some b → ¬Claims.stands dt s b) :
    (s.after dt).startNow = none := by
  unfold State.startNow
  rw [State.cellPace_after, show (s.after dt).up.start = s.up.start from rfl]
  cases start : s.up.start with
  | none => rfl
  | some b =>
    have notStands := gone b start
    unfold Claims.stands at notStands
    simp only [not_or] at notStands
    obtain ⟨unread, passed, noLow⟩ := notStands
    dsimp only
    rw [Bool.eq_false_iff.mpr unread, show (s.after dt).now = s.now + dt from rfl, decide_eq_false passed]
    exact if_neg fun low => noLow (by
      obtain ⟨low, timed, began⟩ := State.upLow_any.mp low
      exact ⟨low, timed, of_decide_eq_true began⟩)

theorem startAfter_startNow : Claims.startAfter dt s (s.after dt).startNow :=
  ⟨fun _ start stands => State.startNow_of_stands start stands, State.startNow_of_gone⟩

theorem State.startNow_iff {b' : StartEdge} :
    (s.after dt).startNow = some b' ↔ ∃ b, Claims.standing dt s b ∧ b' = readBy dt s b := by
  constructor
  · intro found
    by_cases stands : ∃ b, Claims.standing dt s b
    · obtain ⟨b, standing⟩ := stands
      rw [State.startNow_of_stands standing.1 standing.2] at found
      exact ⟨b, standing, (Option.some.inj found).symm⟩
    · rw [State.startNow_of_gone fun b start here => stands ⟨b, start, here⟩] at found
      cases found
  · rintro ⟨b, standing, rfl⟩
    exact State.startNow_of_stands standing.1 standing.2

theorem State.startNow_any {p : StartEdge → Bool} : (s.after dt).startNow.any p = true ↔
    ∃ b, Claims.standing dt s b ∧ p (readBy dt s b) = true := by
  rw [Option.any_eq_true]
  constructor
  · rintro ⟨b', found, yes⟩
    obtain ⟨b, standing, rfl⟩ := State.startNow_iff.mp found
    exact ⟨b, standing, yes⟩
  · rintro ⟨b, standing, yes⟩
    exact ⟨_, State.startNow_iff.mpr ⟨b, standing, rfl⟩, yes⟩

theorem State.startNow_all {p : StartEdge → Bool} : (s.after dt).startNow.all p = true ↔
    ∀ b, Claims.standing dt s b → p (readBy dt s b) = true := by
  rw [Option.all_eq_true]
  constructor
  · exact fun all b standing => all _ (State.startNow_iff.mpr ⟨b, standing, rfl⟩)
  · intro all b' found
    obtain ⟨b, standing, rfl⟩ := State.startNow_iff.mp found
    exact all b standing

/-! ### Windows, rate and stop cell (R5, R7, R13, R14) -/

theorem State.window2_after : (s.after dt).window2 = Claims.window s := by
  have waits : s.fc.awaitsResponse = decide (s.fc.answer = some .listen ∧ s.fc.data = []) := by
    rw [Bool.eq_iff_iff, FrameContext.awaitsResponse_iff, decide_eq_true_iff]
  unfold State.window2 Claims.window
  rw [show (s.after dt).fc = s.fc from rfl, waits]
  cases s.fc.state <;> simp only [decide_eq_true_eq, reduceCtorEq, if_false, if_true] <;> rfl

theorem State.edgeInTime_after : (s.after dt).edgeInTime b.edge = decide (Claims.startInTime s b) := by
  unfold State.edgeInTime
  rw [State.window2_after]
  rfl

theorem State.sevenTbit_after : (s.after dt).sevenTbit b = Claims.seven s b := by
  unfold State.sevenTbit Claims.seven
  rw [show (s.after dt).fc = s.fc from rfl]
  cases s.fc.state <;> rfl

theorem State.rateHolds_after : (s.after dt).rateHolds b = true ↔ Claims.rateHolds dt s b := by
  unfold State.rateHolds Claims.rateHolds
  rw [show (s.after dt).fc = s.fc from rfl]
  by_cases rate : s.fc.state = .rate
  · have span : Claims.seven s b = b.span := by
      unfold Claims.seven
      rw [if_pos rate]
      rfl
    rw [span, rate]
    cases b.span with
    | none => simp only [decide_eq_true_eq, true_implies]; rfl
    | some span =>
      simp only [spanEarly, spanLate, Bool.and_eq_true, Bool.not_eq_true', decide_eq_false_iff_not, not_lt, true_implies]
      rfl
  · refine iff_of_true ?_ fun here => absurd here rate
    split
    · rename_i here
      exact absurd here rate
    · rfl

theorem State.byteGoesOn_after : (s.after dt).byteGoesOn b = true ↔ Claims.readOn dt s b := by
  unfold State.byteGoesOn Claims.readOn
  rw [Bool.and_eq_true, Bool.and_eq_true, State.edgeInTime_after, decide_eq_true_iff, State.rateHolds_after,
    State.sevenTbit_after, Option.all_eq_true, and_assoc]
  simp only [decide_eq_true_eq]
  rfl

theorem State.stopCovered_after {since : Time} :
    (s.after dt).stopCovered b since = true ↔ Claims.covers dt s b since := by
  unfold State.stopCovered Claims.covers
  rw [State.sevenTbit_after, Option.any_eq_true]
  simp only [Bool.and_eq_true, decide_eq_true_eq]
  rfl

theorem State.byteOver_after : (s.after dt).byteOver = true ↔
    s.fc.state.receiving = true ∧ ∃ b, Claims.standing dt s b ∧ ¬Claims.readOn dt s b := by
  unfold State.byteOver
  rw [Bool.and_eq_true, State.startNow_any]
  refine and_congr_right fun _ => exists_congr fun b => and_congr_right fun _ => ?_
  rw [Bool.not_eq_true', Bool.eq_false_iff]
  exact not_congr State.byteGoesOn_after

/-! ### A byte that completes in time -/

theorem State.byteLate_after (early : 7 * (s.now + dt - s.fc.ref) <
    (if s.fc.answer = some .listen ∧ s.fc.data = [] then 20 else 13) * s.fc.span.getD 0 + 7) :
    (s.after dt).byteLate = false := by
  unfold State.byteLate limitPassed
  refine decide_eq_false (Nat.not_le.mpr ?_)
  have waits := if_congr (FrameContext.awaitsResponse_iff (fc := s.fc)) (Eq.refl 20) (Eq.refl 13)
  show 7 * (s.now + dt - s.fc.ref) < (if s.fc.awaitsResponse = true then 20 else 13) * s.fc.pace + 7
  rw [waits]
  exact early

theorem State.byteRefusal_after {seven : Time} (reads : ∀ b, Claims.standing dt s b → Claims.startInTime s b ∧
      19 * seven ≤ 14 * (s.now + dt - b.edge) ∧
      ∀ low, s.up.rx = .lowSeen low → 19 * seven < 14 * (low.since - b.edge)) :
    (s.after dt).byteRefusal seven = none := by
  unfold State.byteRefusal
  cases found : (s.after dt).startNow with
  | none => rfl
  | some b' =>
    obtain ⟨b, standing, rfl⟩ := State.startNow_iff.mp found
    obtain ⟨inTime, reached, noLow⟩ := reads b standing
    have edge : (s.after dt).edgeInTime (readBy dt s b).edge = true :=
      State.edgeInTime_after.trans (decide_eq_true inTime)
    have open_ : ((s.after dt).upLow.any fun low => decide (14 * (low.since - b.edge) ≤ 19 * seven)) = false := by
      refine Bool.eq_false_iff.mpr fun low => ?_
      obtain ⟨low, timed, covers⟩ := State.upLow_any.mp low
      exact Nat.not_le.mpr (noLow low timed) (of_decide_eq_true covers)
    dsimp only
    rw [edge]
    refine (if_neg (by simp)).trans ((if_neg (Nat.not_lt.mpr reached)).trans (if_neg ?_))
    exact Bool.eq_false_iff.mp open_

/-- A byte of the frame that completes in time is taken, with the UP wire high. -/
theorem receive_onTime {st : FcState} {f : State → Out} (high : s.inReset = false) (state : s.fc.state = st)
    (wire : s.up.rx ≠ .stuck) (onTime : Claims.onTime dt s) : receive dt st s f = f (Claims.atByte dt s) :=
  receive_run high state wire (State.byteLate_after onTime.1) (State.byteRefusal_after onTime.2)

/-- R24: a line error, as the statements name it. -/
theorem State.lineError_eq (e : LineError) (s : State) : s.lineError e = Claims.lineFault e.outcome e.count s := rfl

end

end Sys2Proof.Machine
end

section
/-!
PROOFS. The address byte (R9, R21, R22, R43, R45, R46) and the length byte (R10, R19, R21 to R23, R47, R154, R155, R172).
-/

namespace Sys2Proof.Machine

/-! ### The address byte -/

theorem kindMatches_eq (kind : TagKind) (role : Role) : kindMatches kind role = Claims.roleFits kind role := by
  cases kind <;> cases role <;> rfl

theorem decision_eq (f : Forward) : f.decision = if f = .down then .down else .none := by
  cases f <;> rfl

theorem decision_down {f : Forward} : f.decision = .down ↔ f = .down := by
  cases f <;> decide

theorem mismatched_fc (yes : Bool) (s : State) : (Claims.mismatched yes s).fc = s.fc := by
  unfold Claims.mismatched
  split <;> rfl

theorem mismatched_now (yes : Bool) (s : State) : (Claims.mismatched yes s).now = s.now := by
  unfold Claims.mismatched
  split <;> rfl

theorem tagAddressByteTakesItsEntryCopy : Claims.TagAddressByteTakesItsEntryCopy := by
  intro dt kind tag s high state wire onTime code value e fits t
  have byte : value = headByte (.tagged kind tag) := by
    cases kind
    · show BitVec.ofNat 8 (64 * 0 + tag.val) = _
      rw [Nat.mul_zero, Nat.zero_add]
      rfl
    · rfl
    · rfl
  have head : headOf value = some (.tagged kind tag) := by
    rw [byte]
    exact headOf_headByte (by nofun)
  show execAddressByte dt value s = _
  refine (receive_onTime high state wire onTime).trans (congrArg Host.Outcome.next ?_)
  have tagged : (Claims.atByte dt s).takeAddress value = (Claims.atByte dt s).openTagged value kind tag := by
    unfold State.takeAddress
    rw [head]
  rw [tagged]
  unfold State.openTagged State.openFrame
  have counts : (if kindMatches kind ((Claims.atByte dt s).tags.lookup tag).entry.role = true then Claims.atByte dt s
      else (Claims.atByte dt s).countMismatch) = t := by
    rw [kindMatches_eq]
    show (if fits = true then _ else _) = Claims.mismatched (!fits) _
    cases fits <;> rfl
  have fc : t.fc = s.fc := mismatched_fc _ _
  have now : t.now = s.now + dt := mismatched_now _ _
  dsimp only
  rw [counts]
  refine congrArg (State.joinDown value .opening) ?_
  rw [fc, now, kindMatches_eq]
  simp only [decision_down]
  rw [decision_eq]
  rfl

theorem State.mgmtForward_eq (function : MgmtFunction) (station : Fin 16) (s : State) :
    s.mgmtForward function station = if function = .command ∧ station = 15 then .pending
      else if ∃ n : Fin 15, s.mgmt.station = some n ∧ n.val = station.val then .none else .down := by
  unfold State.mgmtForward
  have own : (s.mgmt.station.any fun n => n.val == station.val) = true ↔
      ∃ n : Fin 15, s.mgmt.station = some n ∧ n.val = station.val := by
    rw [Option.any_eq_true]
    simp only [beq_iff_eq]
  exact if_congr Iff.rfl rfl (if_congr own rfl rfl)

theorem managementAddressByteSettlesForward : Claims.ManagementAddressByteSettlesForward := by
  intro dt s high state wire onTime opened goes
  have ran (value : Byte) : exec (.addressByte dt value) s = .next ((Claims.atByte dt s).takeAddress value) := by
    show execAddressByte dt value s = _
    exact receive_onTime high state wire onTime
  have open_ (value : Byte) (f : MgmtFunction) (station : Fin 16) (head : headOf value = some (.mgmt f station)) :
      exec (.addressByte dt value) s = .next (opened value f station (s.mgmtForward f station)) := by
    rw [ran]
    unfold State.takeAddress
    rw [head]
    rfl
  refine ⟨fun station => ?_, fun station own => ?_, fun value undefined => ?_⟩
  · refine (open_ _ .command station (headOf_headByte (h := .mgmt .command station) nofun)).trans ?_
    rw [State.mgmtForward_eq]
    simp only [true_and]
    rfl
  · have head : headOf (headByte (.mgmt .reply station)) = some (.mgmt .reply station) :=
      headOf_headByte fun same => own (by injection same)
    refine (open_ _ .reply station head).trans ?_
    rw [State.mgmtForward_eq]
    rfl
  · rw [ran]
    unfold State.takeAddress
    have head : headOf value = none := by
      rw [headOf_eq]
      repeat rw [if_neg (by omega)]
    rw [head]
    rfl

/-- Settles O8. -/
theorem addressByteSettlesTheForwarding : Obligations.AddressByteSettlesTheForwarding :=
  ⟨tagAddressByteTakesItsEntryCopy, managementAddressByteSettlesForward⟩

end Sys2Proof.Machine
end

section
/-!
PROOFS. The length byte (R10, R19, R21 to R23, R47, R154, R155, R172).
-/

namespace Sys2Proof.Machine

/-! ### The fields of a length byte -/

theorem countOf_fields (q : Seq) (n : Fin 32) : countOf (BitVec.ofNat 8 (32 * q.toNat + n.val)) = n.val := by
  have small := q.isLt
  unfold countOf
  rw [byte_extract, BitVec.toNat_ofNat]
  omega

theorem seqOf_fields (q : Seq) (n : Fin 32) : seqOf (BitVec.ofNat 8 (32 * q.toNat + n.val)) = q := by
  have small := q.isLt
  refine BitVec.eq_of_toNat_eq ?_
  unfold seqOf
  rw [byte_extract, BitVec.toNat_ofNat]
  omega

theorem finOf_count (n : Nat) (small : n ≤ 16) : finOf 17 (byteOf n) = some (Fin.ofNat 17 n) := by
  have same := finOf_byteOf (show 17 ≤ 256 by decide) (Fin.ofNat 17 n)
  rwa [Fin.val_ofNat, Nat.mod_eq_of_lt (Nat.lt_succ_of_le small)] at same

/-- R47: a length mismatch, as the statements name it. -/
theorem lengthMismatch_eq (head : Head) (copy : Option EntryCopy) (count : Nat) :
    lengthMismatch (some head) copy count = Claims.lengthUnfit head copy count := by
  unfold lengthMismatch Claims.lengthUnfit
  rcases head with ⟨kind, tag⟩ | ⟨f, n⟩
  · cases kind
    · cases copy with
      | none => rfl
      | some c =>
        dsimp only
        cases c.entry.expected <;> simp
    · rfl
    · rfl
  · rfl

/-- R10: a length byte that ends its frame, as the statements name it. -/
theorem lengthBad_iff (head : Head) (value : Byte) : lengthBad (some head) value = true ↔
    16 < countOf value ∨ (Claims.isMark head = true ∧ countOf value ≠ 2) := by
  unfold lengthBad Claims.isMark
  rcases head with ⟨kind, tag⟩ | ⟨f, n⟩
  · cases kind <;> simp
  · simp

/-- R10 and R47: what a length byte that does not end its frame records. -/
def lengthRecorded (dt : Time) (value : Byte) (head : Head) (s : State) : State :=
  let unfit := Claims.lengthUnfit head s.fc.copy (countOf value)
  { Claims.mismatched unfit (Claims.atByte dt s) with fc := { s.fc with
      lengthByte := some value, count := some (Fin.ofNat 17 (countOf value)), seq := some (seqOf value),
      sum := s.fc.sum + value, noLocal := s.fc.noLocal || unfit, ref := s.now + dt } }

/-- R19: the state that follows a length byte where the bridge receives the frame's other bytes. -/
def State.afterLengthByte (count : Nat) (s : State) : State := { s with fc := { s.fc with state := afterLength count } }

section
variable {dt : Time} {value : Byte} {head : Head} {s : State}

theorem State.recordLength_eq (small : countOf value ≤ 16) :
    (Claims.atByte dt s).recordLength value (some head) = lengthRecorded dt value head s := by
  unfold State.recordLength lengthRecorded
  rw [show (Claims.atByte dt s).fc.copy = s.fc.copy from rfl, lengthMismatch_eq, finOf_count _ small]
  show ({ Claims.mismatched _ _ with fc := { (Claims.mismatched _ _).fc with
    lengthByte := _, count := _, seq := _, sum := (Claims.mismatched _ _).fc.sum + value,
    noLocal := (Claims.mismatched _ _).fc.noLocal || _, ref := (Claims.mismatched _ _).now } } : State) = _
  rw [mismatched_fc, mismatched_now]
  rfl

theorem State.takeLength_bad (known : s.fc.head = some head) (bad : lengthBad (some head) value = true) :
    (Claims.atByte dt s).takeLength value =
      Claims.lineFault .length (fun c => { c with length := satInc c.length }) (Claims.atByte dt s) := by
  unfold State.takeLength
  rw [show (Claims.atByte dt s).fc.head = some head from known]
  exact (if_pos bad).trans (State.lineError_eq _ _)

theorem State.takeLength_response (known : s.fc.head = some head) (sound : ¬lengthBad (some head) value = true)
    (response : head.hasResponse = true) : (Claims.atByte dt s).takeLength value =
      ((lengthRecorded dt value head s).joinDown value .turn).settleAnswer head (countOf value) := by
  have small : countOf value ≤ 16 := Nat.not_lt.mp fun large => sound ((lengthBad_iff head value).mpr (.inl large))
  unfold State.takeLength
  rw [show (Claims.atByte dt s).fc.head = some head from known]
  dsimp only
  rw [if_neg sound, State.recordLength_eq small, if_pos response]

theorem State.takeLength_headSent (known : s.fc.head = some head) (sound : ¬lengthBad (some head) value = true)
    (response : head.hasResponse = false) : (Claims.atByte dt s).takeLength value =
      State.afterLengthByte (countOf value) (if s.fc.forward = some .pending then
          if countOf value = 0 then (lengthRecorded dt value head s).releaseHeld else lengthRecorded dt value head s
        else (lengthRecorded dt value head s).joinDown value .body) := by
  have small : countOf value ≤ 16 := Nat.not_lt.mp fun large => sound ((lengthBad_iff head value).mpr (.inl large))
  unfold State.takeLength
  rw [show (Claims.atByte dt s).fc.head = some head from known]
  dsimp only
  rw [if_neg sound, State.recordLength_eq small, if_neg (by rw [response]; nofun)]
  rfl

end

theorem lengthByteOfAHeadSentFrame : Claims.LengthByteOfAHeadSentFrame := by
  intro dt count seq head s high state wire onTime known kinds value unfit t read waiting
  have counts : countOf value = count.val := countOf_fields seq count
  have sequence : seqOf value = seq := seqOf_fields seq count
  have recorded : lengthRecorded dt value head s = read := by
    unfold lengthRecorded
    rw [counts, sequence]
  have zero : countOf value = 0 ↔ count = 0 := by
    rw [counts, Fin.ext_iff]
    rfl
  have two : (16 < countOf value ∨ (Claims.isMark head = true ∧ countOf value ≠ 2)) ↔
      (16 < count.val ∨ (Claims.isMark head = true ∧ count ≠ 2)) := by
    rw [counts, Ne, Ne, Fin.ext_iff]
    rfl
  have headSent : head.hasResponse = false := by
    rcases kinds with ⟨tag, rfl | rfl⟩ | ⟨n, rfl⟩ <;> rfl
  have after : afterLength (countOf value) = if count = 0 then .check else .data := if_congr zero rfl rfl
  show execLengthByte dt value s = _
  refine (receive_onTime high state wire onTime).trans (congrArg Host.Outcome.next ?_)
  by_cases bad : lengthBad (some head) value = true
  · rw [if_pos (two.mp ((lengthBad_iff head value).mp bad))]
    exact State.takeLength_bad known bad
  · have waits (u : State) : u.afterLengthByte (countOf value) = waiting u :=
      congrArg (fun state => { u with fc := { u.fc with state := state } }) after
    rw [if_neg fun yes => bad ((lengthBad_iff head value).mpr (two.mpr yes)),
      State.takeLength_headSent known bad headSent, recorded, waits]
    by_cases pending : s.fc.forward = some .pending
    · rw [if_neg (not_not.mpr pending), if_pos pending]
      by_cases none : count = 0
      · rw [if_neg (not_not.mpr none), if_pos (zero.mpr none)]
        rfl
      · rw [if_pos none, if_neg (mt zero.mp none)]
    · rw [if_pos pending, if_neg pending]

/-! ### The answer of a GET or a REPLY -/

theorem FrameContext.follows_kept {a b : FrameContext} (follows : a.follows b) :
    b.copy = a.copy ∧ b.forward = a.forward := by
  obtain ⟨relay, state, outcome, same, -⟩ := follows
  rw [same]
  exact ⟨rfl, rfl⟩

theorem replyBytes_read (r : ReplyRecord) (count : Nat) : (replyBytes r count).length = count ∧
    ∀ i : Nat, i < count → (replyBytes r count)[i]? = some ((replyRecordBytes r).getD i 0) := by
  unfold replyBytes
  refine ⟨by simp; omega, fun i small => ?_⟩
  by_cases inside : i < (replyRecordBytes r).length
  · rw [List.getElem?_append_left (by simp; omega), List.getElem?_take_of_lt small, List.getD_eq_getElem?_getD,
      List.getElem?_eq_getElem inside]
    rfl
  · have missing : (replyRecordBytes r).length ≤ i := Nat.not_lt.mp inside
    rw [List.getElem?_append_right (by simp; omega), List.getD_eq_getElem?_getD, List.getElem?_eq_none missing,
      List.getElem?_replicate, if_pos (by simp; omega)]
    rfl

section
variable {count : Nat} {s : State}

theorem State.settleAnswer_reply (station : Fin 16) : s.settleAnswer (.mgmt .reply station) count =
    if s.fc.forward = some .none then s.respond (replyBytes s.mgmt.reply count) else s.relayOrListen count := by
  unfold State.settleAnswer
  cases s.fc.copy <;> rfl

theorem State.settleAnswer_get {tag : Tag} {c : EntryCopy} (copy : s.fc.copy = some c) :
    s.settleAnswer (.tagged .get tag) count =
      if c.entry.role = .publish then
        if mapSize s.publish.source s.publish.maps[c.entry.buffer] = count then
          (s.buildSnapshot c.entry.buffer).respond (s.snapshotBytes c.entry.buffer)
        else s.sizeMismatch.listenUp count
      else s.relayOrListen count := by
  unfold State.settleAnswer
  rw [copy]

end

theorem lengthByteSettlesTheAnswer : Claims.LengthByteSettlesTheAnswer := by
  intro dt count seq head s high state wire onTime known value read answers listens relays
  have counts : countOf value = count.val := countOf_fields seq ⟨count.val, by omega⟩
  have sequence : seqOf value = seq := seqOf_fields seq ⟨count.val, by omega⟩
  have sound (unmarked : Claims.isMark head = false) : ¬lengthBad (some head) value = true := by
    rw [lengthBad_iff, counts, unmarked]
    rintro (large | ⟨mark, -⟩)
    · exact absurd count.isLt (by omega)
    · cases mark
  have recorded (plain : Claims.lengthUnfit head s.fc.copy (countOf value) = false) :
      (lengthRecorded dt value head s).joinDown value .turn = read := by
    unfold lengthRecorded
    rw [plain, counts, sequence, Fin.ofNat_val_eq_self]
    dsimp only
    rw [Bool.or_false]
    rfl
  have ran : exec (.lengthByte dt value) s = .next ((Claims.atByte dt s).takeLength value) := by
    show execLengthByte dt value s = _
    exact receive_onTime high state wire onTime
  have kept (u : State) := FrameContext.follows_kept (State.joinDown_follows value .turn u)
  have copy : read.fc.copy = s.fc.copy := (kept _).1
  have forward : read.fc.forward = s.fc.forward := (kept _).2
  have mgmt : read.mgmt = s.mgmt := by simp [read, Claims.atByte]
  have publish : read.publish = s.publish := by simp [read, Claims.atByte]
  have listening (u : State) : u.listenUp count.val = listens u := by
    have after : afterLength count.val = if count = 0 then .check else .data := if_congr (by rw [Fin.ext_iff]; rfl) rfl rfl
    exact congrArg (fun state => { u with fc := { u.fc with state := state, answer := some .listen } }) after
  have relaying : read.relayOrListen count.val = relays read := if_congr Iff.rfl rfl (listening read)
  have settles (response : head.hasResponse = true) (unmarked : Claims.isMark head = false)
      (plain : Claims.lengthUnfit head s.fc.copy (countOf value) = false) :
      exec (.lengthByte dt value) s = .next (read.settleAnswer head count.val) := by
    rw [ran, State.takeLength_response known (sound unmarked) response, recorded plain, counts]
  clear_value read
  refine ⟨fun station reply own => ?_, fun station reply other => ?_, fun tag c get found role => ?_,
    fun tag c get found role => ?_⟩
  · subst reply
    obtain ⟨length, bytes⟩ := replyBytes_read s.mgmt.reply count.val
    refine ⟨replyBytes s.mgmt.reply count.val, ?_, length, bytes⟩
    rw [settles rfl rfl rfl, State.settleAnswer_reply, if_pos (forward.trans own), mgmt]
    rfl
  · subst reply
    rw [settles rfl rfl rfl, State.settleAnswer_reply, if_neg (by rw [forward]; exact other), relaying]
  · subst get
    intro b
    rw [settles rfl rfl rfl, State.settleAnswer_get (copy.trans found), if_pos role, listening]
    exact congrArg Host.Outcome.next (if_congr (by rw [publish]) rfl rfl)
  · subst get
    rw [settles rfl rfl rfl, State.settleAnswer_get (copy.trans found), if_neg role, relaying]

theorem lengthAboveSixteenEndsGetAndReply : Claims.LengthAboveSixteenEndsGetAndReply := by
  intro dt count seq head s high state wire onTime known _ large
  show execLengthByte dt _ s = _
  refine (receive_onTime high state wire onTime).trans (congrArg Host.Outcome.next ?_)
  exact State.takeLength_bad known ((lengthBad_iff head _).mpr (.inl (by rw [countOf_fields]; exact large)))

/-- Settles O9. -/
theorem lengthByteSettlesTheFrame : Obligations.LengthByteSettlesTheFrame :=
  ⟨lengthByteOfAHeadSentFrame, lengthByteSettlesTheAnswer, lengthAboveSixteenEndsGetAndReply⟩

end Sys2Proof.Machine
end

section
/-!
PROOFS. Data bytes and the check byte (R11, R12, R20, R22 to R24, R39, R43, R48, R49, R165, R166, R173).
-/

namespace Sys2Proof.Machine

/-! ### Data bytes -/

theorem maskOk_false_iff {value : Byte} : maskOk value = false ↔ 16 ≤ value.toNat := by
  unfold maskOk
  rw [decide_eq_false_iff_not, ← BitVec.toNat_inj, byte_extract]
  have small := value.isLt
  show ¬value.toNat / 2 ^ 4 % 2 ^ 4 = 0 ↔ _
  omega

theorem groupMaskBad_iff {head : Option Head} {index : Nat} {value : Byte} : groupMaskBad head index value = true ↔
    (∃ tag, head = some (.tagged .mark tag)) ∧ index = 1 ∧ 16 ≤ value.toNat := by
  unfold groupMaskBad
  rcases head with _ | ⟨kind, tag⟩ | ⟨f, n⟩
  · simp
  · cases kind <;> simp [maskOk_false_iff]
  · simp

/-- R11 and R23: a data byte joins the data list and the relay queue. -/
def State.appended (value : Byte) (s : State) : State :=
  State.joinDown value .body
    { s with fc := { s.fc with data := s.fc.data ++ [value], sum := s.fc.sum + value, ref := s.now } }

/-- R22: the state in which a data byte finds the forward field settled. -/
def State.settledBy (value : Byte) (s : State) : State :=
  if s.fc.forward = some .pending then s.settlePending value else s

theorem State.takeData_eq {value : Byte} {s : State} (sound : ¬groupMaskBad s.fc.head s.fc.data.length value = true) :
    s.takeData value =
      if (s.settledBy value).fc.data.length + 1 < ((s.settledBy value).fc.count.getD 0).val then
        (s.settledBy value).appended value
      else { (s.settledBy value).appended value with
        fc := { ((s.settledBy value).appended value).fc with state := .check } } := by
  unfold State.takeData
  rw [if_neg sound]
  have longer : ((s.settledBy value).fc.data ++ [value]).length = (s.settledBy value).fc.data.length + 1 := by simp
  rw [← longer]
  rfl

theorem State.settledBy_of_settled {value : Byte} {s : State} (settled : s.fc.forward ≠ some .pending) :
    s.settledBy value = s := if_neg settled

theorem State.settledBy_of_held {value : Byte} {s : State} (held : s.fc.forward = some .pending) :
    s.settledBy value = if s.mgmt.station = none ∧ value = 0x06 then { s with fc := { s.fc with forward := some .none } }
      else s.releaseHeld := by
  have assigns : (¬s.assigned = true ∧ value = cmdByte .assignStation) ↔ (s.mgmt.station = none ∧ value = 0x06) := by
    refine and_congr ?_ Iff.rfl
    unfold State.assigned
    cases s.mgmt.station <;> simp
  unfold State.settledBy State.settlePending
  rw [if_pos held]
  exact if_congr assigns rfl rfl

theorem FrameContext.follows_read {a b : FrameContext} (follows : a.follows b) : b.data = a.data ∧ b.count = a.count := by
  obtain ⟨relay, state, outcome, same, -⟩ := follows
  rw [same]
  exact ⟨rfl, rfl⟩

theorem State.releaseHeld_kept (s : State) : s.releaseHeld.fc.data = s.fc.data ∧ s.releaseHeld.fc.count = s.fc.count ∧
    s.releaseHeld.now = s.now := by
  have kept (v w : Byte) (u : State) := FrameContext.follows_read
    (FrameContext.follows_trans (State.joinDown_follows v .opening u) (State.joinDown_follows w .body _))
  refine ⟨(kept _ _ _).1, (kept _ _ _).2, ?_⟩
  unfold State.releaseHeld
  simp

theorem State.settledBy_kept (value : Byte) (s : State) : (s.settledBy value).fc.data = s.fc.data ∧
    (s.settledBy value).fc.count = s.fc.count ∧ (s.settledBy value).now = s.now := by
  by_cases held : s.fc.forward = some .pending
  · rw [State.settledBy_of_held held]
    split
    · exact ⟨rfl, rfl, rfl⟩
    · exact State.releaseHeld_kept s
  · rw [State.settledBy_of_settled held]
    exact ⟨rfl, rfl, rfl⟩

/-- Settles O10. -/
theorem dataByteIsAppendedAndForwarded : Obligations.DataByteIsAppendedAndForwarded := by
  intro dt value s high state wire onTime badMask appended counted base released
  have ran : exec (.dataByte dt value) s = .next (base.takeData value) := by
    show execDataByte dt value s = _
    exact receive_onTime high state wire onTime
  have bad : groupMaskBad base.fc.head base.fc.data.length value = true ↔ badMask := groupMaskBad_iff
  obtain ⟨data, count, now⟩ := State.settledBy_kept value base
  have sound (fits : ¬badMask) : base.takeData value = counted (appended (base.settledBy value)) := by
    rw [State.takeData_eq (mt bad.mp fits), data, count]
    have same : (base.settledBy value).appended value = appended (base.settledBy value) :=
      congrArg (fun moment => State.joinDown value .body { base.settledBy value with
        fc := { (base.settledBy value).fc with
          data := (base.settledBy value).fc.data ++ [value]
          sum := (base.settledBy value).fc.sum + value
          ref := moment } }) now
    rw [same]
    rfl
  refine ⟨fun yes => ?_, fun fits settled => ?_, fun fits held unassigned assigns => ?_, fun fits held other => ?_⟩
  · rw [ran]
    unfold State.takeData
    rw [if_pos (bad.mpr yes)]
    rfl
  · rw [ran, sound fits, State.settledBy_of_settled (s := base) settled]
  · rw [ran, sound fits, State.settledBy_of_held (s := base) held,
      if_pos (show base.mgmt.station = none ∧ value = 0x06 from ⟨unassigned, assigns⟩)]
    rfl
  · rw [ran, sound fits, State.settledBy_of_held (s := base) held,
      if_neg (show ¬(base.mgmt.station = none ∧ value = 0x06) from other)]
    rfl

/-! ### The check byte -/

theorem State.eitherOrder_of_singles {xs ys : List Posting} (s : State) (first : xs.length ≤ 1) (second : ys.length ≤ 1) :
    s.eitherOrder xs ys = xs ++ ys ∨ s.eitherOrder xs ys = ys ++ xs := by
  rcases xs with _ | ⟨x, _ | ⟨x', xs⟩⟩
  · rcases ys with _ | ⟨y, ys⟩
    · exact .inl rfl
    · exact .inl rfl
  · rcases ys with _ | ⟨y, _ | ⟨y', ys⟩⟩
    · exact .inl rfl
    · unfold State.eitherOrder
      show (if _ then [x, y] else [y, x]) = _ ∨ (if _ then [x, y] else [y, x]) = _
      split
      · exact .inl rfl
      · exact .inr rfl
    · exact absurd second (by simp)
  · exact absurd first (by simp)

/-- R27, R37, R183: the postings of a check byte's own moment. -/
theorem State.checkPostings (s : State) :
    Claims.checkPosts (s.eitherOrder s.overrunPostings s.backPostings) s := by
  rw [State.overrunPostings_eq]
  refine State.eitherOrder_of_singles s ?_ ?_
  · unfold Claims.overrunPosts
    split <;> simp
  · unfold State.backPostings
    split <;> simp

section
variable {dt : Time} {s : State}

/-- R20 and R23: a frame whose check byte agrees has passed, as the statements name it. -/
theorem State.takeCheck_agrees (dt : Time) (s : State) : ∃ posts : List Posting, Claims.checkPosts posts s ∧
    (Claims.atByte dt s).takeCheck (255 - s.fc.sum) = (Claims.agreed dt s).passEffect posts := by
  refine ⟨_, State.checkPostings (Claims.atByte dt s), ?_⟩
  obtain ⟨-, draws, -⟩ := State.joined_frame (255 - s.fc.sum) .ending (Claims.atByte dt s)
  unfold State.takeCheck
  rw [if_pos (show 255 - s.fc.sum = checkOf (Claims.atByte dt s).fc.sum from rfl)]
  exact congrArg (fun n => State.passEffect _
    { (((Claims.atByte dt s).joined (255 - s.fc.sum) .ending).finish .complete).passed with draws := n + 1 }) draws

/-- What the pass of a frame leaves of its context. -/
theorem agreed_fc (dt : Time) (s : State) : (Claims.agreed dt s).fc.head = s.fc.head ∧
    (Claims.agreed dt s).fc.copy = s.fc.copy ∧ (Claims.agreed dt s).fc.seq = s.fc.seq ∧
    (Claims.agreed dt s).fc.noLocal = s.fc.noLocal ∧ (Claims.agreed dt s).fc.forward = s.fc.forward ∧
    (Claims.agreed dt s).fc.data = s.fc.data ∧ (Claims.agreed dt s).fc.id = s.fc.id := by
  obtain ⟨relay, state, outcome, same, -⟩ :=
    State.joined_follows (255 - s.fc.sum) .ending (Claims.atByte dt s)
  show (({ (State.joined _ _ _).fc with state := _, outcome := _ }) : FrameContext).head = _ ∧ _
  unfold Claims.agreed Claims.counted
  dsimp only
  rw [same]
  and_intros <;> rfl

theorem agreed_tags (dt : Time) (s : State) : (Claims.agreed dt s).tags = s.tags := by
  simp [Claims.agreed, Claims.counted, Claims.atByte]

theorem agreed_mgmt (dt : Time) (s : State) : (Claims.agreed dt s).mgmt = s.mgmt := by
  simp [Claims.agreed, Claims.counted, Claims.atByte]

end

/-! ### What a frame that passes does at this bridge -/

section
variable {posts : List Posting} {s : State} {tag : Tag} {kind : TagKind} {c : EntryCopy} {n : Fin 16}

theorem State.acceptedMark_of_other (other : s.fc.noLocal = true ∨
    ∀ tag c, s.fc.head = some (.tagged .mark tag) → s.fc.copy = some c → c.entry.role ≠ .marker) :
    s.acceptedMark = none := by
  unfold State.acceptedMark
  split
  next => rfl
  next acts =>
    split
    next tag copy head found => exact if_neg (other.resolve_left acts tag copy head found)
    next => rfl

theorem State.passEffect_of_other (other : s.fc.noLocal = true ∨
    ∀ tag c, s.fc.head = some (.tagged .mark tag) → s.fc.copy = some c → c.entry.role ≠ .marker) :
    s.passEffect posts = (s.postAll posts).localEffect := by
  unfold State.passEffect
  rw [State.acceptedMark_of_other other]

theorem State.passEffect_mark (acts : s.fc.noLocal = false) (head : s.fc.head = some (.tagged .mark tag))
    (copy : s.fc.copy = some c) (marker : c.entry.role = .marker) : s.passEffect posts =
      (s.acceptFrame tag c.generation).handleMark (s.fc.data.getD 0 0) (maskOf (s.fc.data.getD 1 0)) c.entry posts := by
  have accepted : s.acceptedMark = some (tag, c) := by
    unfold State.acceptedMark
    rw [acts, head, copy]
    exact if_pos marker
  unfold State.passEffect
  rw [accepted]

theorem State.localEffect_of_noLocal (passive : s.fc.noLocal = true) : s.localEffect = s := if_pos passive

theorem State.localEffect_tagged (acts : s.fc.noLocal = false) (head : s.fc.head = some (.tagged kind tag))
    (copy : s.fc.copy = some c) : s.localEffect = s.tagEffect kind tag c := by
  unfold State.localEffect
  rw [acts, head, copy]
  rfl

theorem State.localEffect_command (acts : s.fc.noLocal = false) (head : s.fc.head = some (.mgmt .command n)) :
    s.localEffect = s.commandEffect n := by
  unfold State.localEffect
  rw [acts, head]
  cases s.fc.copy <;> rfl

theorem State.localEffect_reply (head : s.fc.head = some (.mgmt .reply n)) : s.localEffect = s := by
  unfold State.localEffect
  rw [head]
  split
  · rfl
  · cases s.fc.copy <;> rfl

theorem State.commandEffect_of_foreign (single : n ≠ 15) (elsewhere : s.fc.forward ≠ some .none) :
    s.commandEffect n = s := by
  unfold State.commandEffect
  rw [if_neg single, if_neg elsewhere]

theorem State.commandEffect_of_ours (ours : n = 15 ∨ s.fc.forward = some .none) : s.commandEffect n =
    s.takeCommand (if n = 15 then .broadcast else .own) (some s.fc.id) (s.fc.seq.getD 0) s.fc.data := by
  unfold State.commandEffect
  by_cases every : n = 15
  · rw [if_pos every, if_pos every]
  · rw [if_neg every, if_neg every, if_pos (ours.resolve_left every)]

end

theorem checkByteDecidesThePass : Claims.CheckByteDecidesThePass := by
  intro dt value s high state wire onTime
  have ran : exec (.checkByte dt value) s = .next ((Claims.atByte dt s).takeCheck value) := by
    show execCheckByte dt value s = _
    exact receive_onTime high state wire onTime
  refine ⟨fun differs => ?_, fun agrees kinds => ?_⟩
  · rw [ran]
    exact congrArg Host.Outcome.next ((if_neg differs).trans (State.lineError_eq _ _))
  · subst agrees
    obtain ⟨posts, due, passes⟩ := State.takeCheck_agrees dt s
    obtain ⟨head, copy, -, passive, forward, -⟩ := agreed_fc dt s
    obtain ⟨-, -, -, -, -, -, context, -⟩ := State.postAll_frame posts (Claims.agreed dt s)
    refine ⟨posts, due, ?_⟩
    rw [ran, passes]
    refine congrArg Host.Outcome.next ?_
    rcases kinds with noLocal | ⟨n, reply⟩ | ⟨n, command, single, elsewhere⟩
    · rw [State.passEffect_of_other (.inl (passive.trans noLocal)),
        State.localEffect_of_noLocal (by rw [context, passive, noLocal])]
    · rw [State.passEffect_of_other (.inr fun tag c mark => by rw [head, reply] at mark; cases mark),
        State.localEffect_reply (by rw [context, head, reply])]
    · rw [State.passEffect_of_other (.inr fun tag c mark => by rw [head, command] at mark; cases mark)]
      by_cases noLocal : s.fc.noLocal = true
      · exact State.localEffect_of_noLocal (by rw [context, passive, noLocal])
      · rw [State.localEffect_command (by rw [context, passive, Bool.eq_false_iff.mpr noLocal])
            (by rw [context, head, command]),
          State.commandEffect_of_foreign single (by rw [context, forward]; exact elsewhere)]

theorem passingCommandFrameIsExecuted : Claims.PassingCommandFrameIsExecuted := by
  intro dt station seq s high state wire onTime known sequence acts ours value
  obtain ⟨posts, due, passes⟩ := State.takeCheck_agrees dt s
  obtain ⟨head, -, seqs, passive, forward, data, id⟩ := agreed_fc dt s
  obtain ⟨-, -, -, -, -, -, context, -, -, -, -, -, -, -, -, -, -, mgmt, -⟩ :=
    State.postAll_frame posts (Claims.agreed dt s)
  refine ⟨posts, due, ?_⟩
  intro p
  have ran : exec (.checkByte dt value) s = .next ((Claims.atByte dt s).takeCheck value) := by
    show execCheckByte dt value s = _
    exact receive_onTime high state wire onTime
  have fields : p.fc.seq = some seq ∧ p.fc.data = s.fc.data ∧ p.fc.id = s.fc.id :=
    ⟨by rw [context, seqs, sequence], by rw [context, data], by rw [context, id]⟩
  have last : p.mgmt.lastSeq = s.mgmt.lastSeq := by rw [mgmt, agreed_mgmt]
  rw [ran, passes, State.passEffect_of_other (.inr fun tag c mark => by rw [head, known] at mark; cases mark),
    State.localEffect_command (by rw [context, passive, acts]) (by rw [context, head, known]),
    State.commandEffect_of_ours (by rw [context, forward]; exact ours)]
  refine congrArg Host.Outcome.next ?_
  obtain ⟨sequence, data, id⟩ := fields
  show p.takeCommand _ (some p.fc.id) (p.fc.seq.getD 0) p.fc.data = _
  rw [sequence, data, id, Option.getD_some]
  by_cases again : s.mgmt.lastSeq = some seq
  · rw [if_pos again]
    exact if_pos (last.trans again)
  · rw [if_neg again]

/-- Settles O12. -/
theorem checkByteDecidesAndExecutes : Obligations.CheckByteDecidesAndExecutes :=
  ⟨checkByteDecidesThePass, passingCommandFrameIsExecuted⟩

/-- Settles O11. -/
theorem passingTagFrameIsJudged : Obligations.PassingTagFrameIsJudged := by
  intro dt tag kind c seq s high state wire onTime known found sequence acts value last
  obtain ⟨posts, due, passes⟩ := State.takeCheck_agrees dt s
  obtain ⟨head, copy, seqs, passive, -, data, -⟩ := agreed_fc dt s
  obtain ⟨-, -, -, -, -, -, context, -, -, tags, -⟩ := State.postAll_frame posts (Claims.agreed dt s)
  refine ⟨posts, due, ?_⟩
  intro p
  have ran : exec (.checkByte dt value) s = .next ((Claims.agreed dt s).passEffect posts) := by
    show execCheckByte dt value s = _
    exact (receive_onTime high state wire onTime).trans (congrArg Host.Outcome.next passes)
  have kept : p.tags.runtime[tag].lastSeq = last := by rw [tags, agreed_tags]
  have sequenced : p.fc.seq.getD 0 = seq := by rw [context, seqs, sequence]; rfl
  have listed : p.fc.data = s.fc.data := by rw [context, data]
  have judged (plain : kind = .mark → c.entry.role ≠ .marker) :
      exec (.checkByte dt value) s = .next (p.tagEffect kind tag c) := by
    have other (tag' : Tag) (c' : EntryCopy) (mark : (Claims.agreed dt s).fc.head = some (.tagged .mark tag'))
        (same : (Claims.agreed dt s).fc.copy = some c') : c'.entry.role ≠ .marker := by
      rw [head, known] at mark
      rw [copy, found] at same
      cases mark
      cases same
      exact plain rfl
    rw [ran, State.passEffect_of_other (.inr other), State.localEffect_tagged (by rw [context, passive, acts])
      (by rw [context, head, known]) (by rw [context, copy, found])]
  refine ⟨fun put role again => ?_, fun put role fresh => ?_, fun role => ?_, fun mark role => ?_⟩
  · subst put
    rw [judged nofun]
    unfold State.tagEffect
    rw [role]
    dsimp only
    rw [sequenced]
    exact congrArg Host.Outcome.next (if_pos (kept.trans again))
  · subst put
    rw [judged nofun]
    unfold State.tagEffect
    rw [role]
    dsimp only
    rw [sequenced, listed]
    exact congrArg Host.Outcome.next (if_neg (fun again => fresh (kept.symm.trans again)))
  · have effect : p.tagEffect kind tag c = p.acceptFrame tag c.generation := by
      unfold State.tagEffect
      rcases role with role | role <;> rw [role]
    have unmarked : c.entry.role ≠ .marker := fun marker => by simp [marker] at role
    rw [judged fun _ => unmarked, effect, State.acceptFrame_eq, kept]
  · subst mark
    rw [ran, State.passEffect_mark (passive.trans acts) (head.trans known) (copy.trans found) role, data,
      State.acceptFrame_eq, agreed_tags]
    rfl

end Sys2Proof.Machine
end

section
/-!
PROOFS. Lows on UP: their falling edges, what their length means, and a stuck low (R2 to R6, R15, R17 to R19, R32).
-/

namespace Sys2Proof.Machine

theorem FcState.receiving_iff {st : FcState} : st.receiving = true ↔
    st ∈ [FcState.rate, .address, .length, .data, .check] := by
  cases st <;> simp [FcState.receiving]

theorem FcState.not_done_of_receiving {st : FcState} (receives : st.receiving = true) : st ≠ .done := by
  rintro rfl
  cases receives

section
variable {dt : Time} {s : State} {low : LowTimer}

theorem State.upLow_of_lowSeen (timed : s.up.rx = .lowSeen low) : s.upLow = some low := State.upLow_iff.mpr timed

theorem State.inFlight_of_receiving (receives : s.fc.state.receiving = true) : s.inFlight = true :=
  decide_eq_true (FcState.not_done_of_receiving receives)

theorem event_inPlace {p d : State → Bool} {f : State → State} (high : s.inReset = false) (place : p (s.after dt) = true) :
    event dt s p d f = if d (s.after dt) = true then .next (f (s.after dt)) else .refused .notDue := by
  unfold event
  rw [live_high high]
  exact if_pos place

/-! ### A falling edge (R2, R5, R6, R15, R17) -/

/-- R17: where a falling edge that the UP port did not cause can be met. -/
def State.meetsFall (s : State) : Prop :=
  (s.up.rx = .idle ∧ s.fc.state ≠ .responding ∧ s.fc.state ≠ .relayResponse) ∨
    ((∃ low, s.up.rx = .lowSeen low) ∧ s.fc.state ∈ [FcState.rate, .address, .length, .data, .check])

theorem State.lowCanBegin_of_meetsFall (place : s.meetsFall) : s.lowCanBegin = true := by
  unfold State.lowCanBegin
  rcases place with ⟨idle, silent, quiet⟩ | ⟨⟨low, timed⟩, receives⟩
  · rw [idle]
    dsimp only
    rw [decide_eq_true silent, decide_eq_true quiet]
    rfl
  · rw [timed]
    exact FcState.receiving_iff.mpr receives

theorem State.receiving_of_meetsFall (place : s.meetsFall) : s.fc.state.receiving = true ↔ s.fc.state ≠ .done := by
  refine ⟨FcState.not_done_of_receiving, fun running => ?_⟩
  rcases place with ⟨-, silent, quiet⟩ | ⟨-, receives⟩
  · cases state : s.fc.state <;> simp_all [FcState.receiving]
  · exact FcState.receiving_iff.mpr receives

theorem execUpLowSeen_eq (high : s.inReset = false) (place : s.meetsFall) : execUpLowSeen dt s =
    if (s.after dt).byteOver = true then .refused .overdue else .next (s.after dt).seeLow := by
  have begins : (s.after dt).lowCanBegin = true := State.lowCanBegin_of_meetsFall (s := s.after dt) place
  unfold execUpLowSeen
  rw [live_high high, begins]
  rfl

end

theorem fallingEdgeOnUpIsTimed : Claims.FallingEdgeOnUpIsTimed := by
  intro dt s high place
  have receives := State.receiving_of_meetsFall (s := s) place
  have ran : exec (.upLowSeen dt) s = _ := execUpLowSeen_eq high place
  rw [ran]
  refine ⟨fun sound => ?_, fun running stops => if_pos (State.byteOver_after.mpr ⟨receives.mpr running, stops⟩)⟩
  refine ⟨(s.after dt).startNow, if s.fc.state.receiving then some (s.after dt).startSeen else none,
    startAfter_startNow, fun done => if_neg fun yes => receives.mp yes done, fun running => ?_, ?_⟩
  · rw [if_pos (receives.mpr running)]
    unfold State.startSeen
    cases (s.after dt).startNow <;> rfl
  · refine if_neg fun ended => ?_
    obtain ⟨yes, b, standing, stops⟩ := State.byteOver_after.mp ended
    rcases sound with done | reads
    · exact receives.mp yes done
    · exact stops (reads b standing)

/-! ### The length of a low between frames (R3, R17 to R19) -/

theorem lengthOfALowDecidesItsMeaning : Claims.LengthOfALowDecidesItsMeaning := by
  intro dt low s high done timed n
  have free : (s.after dt).inFlight = false := decide_eq_false (not_not.mpr done)
  have notReceiving : (s.after dt).fc.state.receiving = false := by
    rw [show (s.after dt).fc.state = .done from done]
    rfl
  have seen : (s.after dt).upLow = some low := State.upLow_of_lowSeen timed
  refine ⟨?_, ?_, ?_⟩
  · have short : (s.after dt).shortLow = decide (n < 13 * low.tbit) := by
      unfold State.shortLow
      rw [free, seen]
      rfl
    have sound : (s.after dt).byteOver = false ∧ (s.after dt).lowOnStop = false := by
      unfold State.byteOver State.lowOnStop
      rw [notReceiving]
      exact ⟨rfl, rfl⟩
    show execStrayLow dt s = _
    unfold execStrayLow
    rw [live_high high, short, sound.1, sound.2]
    by_cases less : n < 13 * low.tbit
    · rw [if_pos less, decide_eq_true less]
      unfold State.shortLowEnds
      rw [free]
      rfl
    · rw [if_neg less, decide_eq_false less]
      rfl
  · have breaks : (s.after dt).upBreakLow = (decide (13 * low.tbit ≤ n) && decide (n ≤ 200 * low.tbit)) := by
      unfold State.upBreakLow
      rw [free, seen]
      rfl
    show execUpBreak dt s = _
    by_cases fits : 13 * low.tbit ≤ n ∧ n ≤ 200 * low.tbit
    · rw [if_pos fits]
      refine (happens_run high ?_).trans rfl
      rw [breaks, decide_eq_true fits.1, decide_eq_true fits.2]
      rfl
    · rw [if_neg fits]
      refine happens_refused high ?_
      rw [breaks, ← Bool.decide_and]
      exact decide_eq_false fits
  · have place : (s.after dt).lowTimed .up = some low := by
      show (if (s.after dt).inFlight = true then none else (s.after dt).upLow) = _
      rw [free, seen]
      rfl
    show execLineStuck dt .up s = _
    have due : ((s.after dt).lowTimed .up).any (fun low => low.isStuck (s.after dt).now) = true ↔ 200 * low.tbit < n := by
      rw [place]
      exact decide_eq_true_iff
    refine (event_inPlace high ?_).trans (if_congr due rfl rfl)
    rw [place]
    rfl

/-! ### A short low inside a frame (R5, R17) -/

theorem shortLowInAFrameOnlyEnds : Claims.ShortLowInAFrameOnlyEnds := by
  intro dt low s high receiving timed ends
  have receives : s.fc.state.receiving = true := FcState.receiving_iff.mpr receiving
  have flies : (s.after dt).inFlight = true := State.inFlight_of_receiving (s := s.after dt) receives
  have seen : (s.after dt).upLow = some low := State.upLow_of_lowSeen timed
  have short : (s.after dt).shortLow = decide (s.now + dt - low.since < 13 * low.tbit) := by
    unfold State.shortLow
    rw [flies, seen, show (s.after dt).fc.state.receiving = true from receives]
    rfl
  have onStop : (s.after dt).lowOnStop = true ↔ ∃ b, Claims.standing dt s b ∧ Claims.covers dt s b low.since := by
    unfold State.lowOnStop
    rw [show (s.after dt).fc.state.receiving = true from receives, Bool.true_and, State.startNow_any]
    refine exists_congr fun b => and_congr_right fun _ => ?_
    rw [seen]
    exact State.stopCovered_after
  have bad : ((s.after dt).byteOver || (s.after dt).lowOnStop) = true ↔ ∃ b, Claims.standing dt s b ∧ ¬ends b := by
    rw [Bool.or_eq_true, State.byteOver_after, onStop]
    constructor
    · rintro (⟨-, b, standing, stops⟩ | ⟨b, standing, covers⟩)
      · exact ⟨b, standing, fun ⟨reads, _⟩ => stops reads⟩
      · exact ⟨b, standing, fun ⟨_, open_⟩ => open_ covers⟩
    · rintro ⟨b, standing, stops⟩
      by_cases reads : Claims.readOn dt s b
      · exact .inr ⟨b, standing, not_not.mp fun open_ => stops ⟨reads, open_⟩⟩
      · exact .inl ⟨receives, b, standing, reads⟩
  have ran : exec (.strayLow dt) s = if s.now + dt - low.since < 13 * low.tbit then
        (if ((s.after dt).byteOver || (s.after dt).lowOnStop) = true then .refused .overdue
          else .next (s.after dt).shortLowEnds)
      else .refused .outOfPlace := by
    show execStrayLow dt s = _
    unfold execStrayLow
    rw [live_high high, short]
    by_cases less : s.now + dt - low.since < 13 * low.tbit
    · rw [if_pos less, decide_eq_true less]
      rfl
    · rw [if_neg less, decide_eq_false less]
      rfl
  refine ⟨fun long => ran.trans (if_neg (Nat.not_lt.mpr long)), fun less sound => ?_, fun less stops => ?_⟩
  · refine ⟨(s.after dt).startNow, startAfter_startNow, ?_⟩
    have reads : ¬((s.after dt).byteOver || (s.after dt).lowOnStop) = true := fun stops => by
      obtain ⟨b, standing, stops⟩ := bad.mp stops
      exact stops (sound b standing)
    rw [ran, if_pos less, if_neg reads]
    unfold State.shortLowEnds
    rw [if_pos flies]
    rfl
  · rw [ran, if_pos less, if_pos (bad.mpr stops)]

/-! ### A stuck low (R4, R18, R32) -/

theorem stuckLowEndsWithoutAFrame : Claims.StuckLowEndsWithoutAFrame := by
  intro dt s high
  have ends (port : Port) (stuck : Prop) [Decidable stuck]
      (known : (s.after dt).isStuck port = decide stuck) (f : State → State) :
      happens dt s (State.isStuck port) f = if stuck then .next (f (s.after dt)) else .refused .outOfPlace := by
    by_cases yes : stuck
    · rw [if_pos yes]
      exact happens_run high (known.trans (decide_eq_true yes))
    · rw [if_neg yes]
      exact happens_refused high (known.trans (decide_eq_false yes))
  exact ⟨ends .up (s.up.rx = .stuck) rfl fun s => s.setRx .idle,
    ends .down (s.down.state = .stuck) rfl fun s => { s with down := { s.down with state := .idle } }⟩

/-- Settles O5. -/
theorem lowsOnUpAreTimedAndSorted : Obligations.LowsOnUpAreTimedAndSorted :=
  ⟨fallingEdgeOnUpIsTimed, lengthOfALowDecidesItsMeaning, shortLowInAFrameOnlyEnds, stuckLowEndsWithoutAFrame⟩

end Sys2Proof.Machine
end

section
/-!
PROOFS. The rate byte: its span, its value and the measured Tbit (R6, R7, R13).
-/

namespace Sys2Proof.Machine

section
variable {dt span : Time} {s : State} {b : StartEdge} {value : Byte}

/-! ### The rate byte -/

theorem StartEdge.span_eq (rate : s.fc.state = .rate) : b.span = Claims.seven s b := by
  unfold Claims.seven
  rw [if_pos rate]
  rfl

theorem spanEarly_eq : spanEarly (s.after dt).nominal span = decide (100 * span < 616 * s.mgmt.rate.tbit) := rfl

theorem spanLate_eq : spanLate (s.after dt).nominal span = decide (784 * s.mgmt.rate.tbit < 100 * span) := rfl

/-- R6: a row has shown the fourth falling edge of the rate byte under way. -/
theorem State.fourthShown_after (rate : s.fc.state = .rate) :
    ((s.after dt).startNow.bind StartEdge.span).isSome = true ↔
      ∃ b, Claims.standing dt s b ∧ Claims.seven s b ≠ none := by
  rw [Option.isSome_bind, State.startNow_any]
  refine exists_congr fun b => and_congr_right fun _ => ?_
  rw [show (readBy dt s b).span = b.span from rfl, StartEdge.span_eq rate, Option.isSome_iff_ne_none]

theorem State.spanFits_after (rate : s.fc.state = .rate) (fits : Claims.RateByteFits dt span s) :
    (s.after dt).spanFits span = true := by
  refine State.startNow_all.mpr fun b standing => ?_
  obtain ⟨-, fits⟩ := fits b standing
  rw [show (readBy dt s b).span = b.span from rfl, StartEdge.span_eq rate, spanLate_eq, spanEarly_eq]
  by_cases early : 100 * span < 616 * s.mgmt.rate.tbit
  · rw [if_pos early] at fits
    rcases fits with seven | ⟨seven, two, now⟩
    · rw [seven]
      exact decide_eq_true rfl
    · have third : (readBy dt s b).falls.length = 2 ∧ (readBy dt s b).edge + span = (s.after dt).now := ⟨two, now⟩
      rw [seven]
      dsimp only
      rw [decide_eq_true early, decide_eq_true third.1, decide_eq_true third.2]
      exact Bool.or_true _
  · rw [if_neg early] at fits
    by_cases late : 784 * s.mgmt.rate.tbit < 100 * span
    · rw [if_pos late] at fits
      rw [fits.1]
      dsimp only
      rw [decide_eq_true late]
      rfl
    · rw [if_neg late] at fits
      rw [fits.1]
      exact decide_eq_true rfl

theorem State.rateByteLate_after (inTime :
    if 100 * span < 616 * s.mgmt.rate.tbit then s.now + dt - s.fc.ref ≤ 3 * s.mgmt.rate.tbit + span
    else if 784 * s.mgmt.rate.tbit < 100 * span then 100 * (s.now + dt - s.fc.ref) ≤ 1084 * s.mgmt.rate.tbit
    else 14 * (s.now + dt - s.fc.ref) < 42 * s.mgmt.rate.tbit + 19 * span + 14) :
    (s.after dt).rateByteLate span = false := by
  unfold State.rateByteLate
  rw [spanEarly_eq, spanLate_eq]
  by_cases early : 100 * span < 616 * s.mgmt.rate.tbit
  · rw [if_pos early] at inTime
    rw [decide_eq_true early]
    exact decide_eq_false (Nat.not_lt.mpr inTime)
  · rw [if_neg early] at inTime
    rw [decide_eq_false early]
    by_cases late : 784 * s.mgmt.rate.tbit < 100 * span
    · rw [if_pos late] at inTime
      rw [decide_eq_true late]
      exact decide_eq_false (Nat.not_lt.mpr inTime)
    · rw [if_neg late] at inTime
      rw [decide_eq_false late]
      exact decide_eq_false (Nat.not_le.mpr inTime)

theorem State.rateByteRefusal_after (fits : Claims.RateByteFits dt span s) :
    (s.after dt).rateByteRefusal span = none := by
  unfold State.rateByteRefusal
  rw [spanEarly_eq, spanLate_eq]
  have edges (b : StartEdge) (standing : Claims.standing dt s b) : (s.after dt).edgeInTime b.edge = true :=
    State.edgeInTime_after.trans (decide_eq_true (fits b standing).1)
  by_cases early : 100 * span < 616 * s.mgmt.rate.tbit
  · rw [decide_eq_true early]
    exact if_pos (State.startNow_all.mpr edges)
  · rw [decide_eq_false early]
    by_cases late : 784 * s.mgmt.rate.tbit < 100 * span
    · rw [decide_eq_true late]
      refine Option.bind_eq_none_iff.mpr fun b' found => ?_
      obtain ⟨b, standing, rfl⟩ := State.startNow_iff.mp found
      obtain ⟨-, fits⟩ := fits b standing
      rw [if_neg early, if_pos late] at fits
      rw [show (s.after dt).edgeInTime (readBy dt s b).edge = true from edges b standing]
      exact if_neg (Nat.not_lt.mpr fits.2)
    · rw [decide_eq_false late]
      refine State.byteRefusal_after fun b standing => ?_
      obtain ⟨inTime, fits⟩ := fits b standing
      rw [if_neg early, if_neg late] at fits
      exact ⟨inTime, fits.2⟩

theorem execRateByte_run (high : s.inReset = false) (rate : s.fc.state = .rate) (wire : s.up.rx ≠ .stuck)
    (inTime : (s.after dt).rateByteLate span = false) (fits : Claims.RateByteFits dt span s) :
    execRateByte dt span value s = .next ((s.after dt).takeRate span value) := by
  unfold execRateByte
  rw [live_high high, State.spanFits_after rate fits, inTime, State.rateByteRefusal_after fits]
  refine (if_neg ?_).trans rfl
  rintro (other | stuck | misfit)
  · exact other rate
  · exact wire stuck
  · cases misfit

/-- R7 and log 19: the low that an early fourth edge begins. -/
theorem State.earlyLow_after (rate : s.fc.state = .rate) :
    ((∀ b, Claims.standing dt s b → Claims.seven s b = none) →
      (s.after dt).earlyLow = { since := s.now + dt, tbit := s.mgmt.rate.tbit }) ∧
    (∀ b low, Claims.standing dt s b → Claims.seven s b ≠ none → s.up.rx = .lowSeen low →
      (s.after dt).earlyLow = low) := by
  unfold State.earlyLow
  refine ⟨fun unseen => if_neg fun shown => ?_, fun b low standing shown timed => ?_⟩
  · obtain ⟨b, standing, seven⟩ := (State.fourthShown_after rate).mp shown
    exact seven (unseen b standing)
  · rw [if_pos ((State.fourthShown_after rate).mpr ⟨b, standing, shown⟩),
      State.upLow_of_lowSeen (s := s.after dt) timed]
    rfl

theorem State.lineError_of_local (e : LineError) (none : s.fc.relay = none) : s.lineError e = { s with
    fc := { s.fc with state := .done, outcome := some e.outcome },
    up := { s.up with counts := e.count s.up.counts } } := by
  rw [State.lineError_eq]
  exact if_neg (by rw [none]; nofun)

end

/-- Settles O6. -/
theorem rateByteSpanAndValueAreChecked : Obligations.RateByteSpanAndValueAreChecked := by
  intro dt span value s high rate relay wire early late passed inTime fits
  have unrelayed (rx : Rx) : ((s.after dt).setRx rx).fc.relay = none := relay
  obtain ⟨unseen, shown⟩ := State.earlyLow_after (dt := dt) rate
  refine ⟨(s.after dt).earlyLow, unseen, shown, ?_⟩
  show execRateByte dt span value s = _
  rw [execRateByte_run high rate wire (State.rateByteLate_after inTime) fits]
  refine congrArg Host.Outcome.next ?_
  unfold State.takeRate
  rw [spanEarly_eq, spanLate_eq, State.lineError_of_local .rate (unrelayed _), State.lineError_of_local .rate (unrelayed _),
    State.lineError_of_local .format (unrelayed _)]
  exact if_congr decide_eq_true_iff rfl (if_congr decide_eq_true_iff rfl rfl)

end Sys2Proof.Machine
end

section
/-!
PROOFS. The ends of a frame by a line error, without an answer, or by a new break (R3, R5, R7, R13 to R15, R24, R25).
-/

namespace Sys2Proof.Machine

section
variable {dt : Time} {s : State} {b : StartEdge} {low : LowTimer}

/-! ### A new break (R3, R5, R15, R25) -/

theorem State.byteCut_after : (s.after dt).byteCut b low = true ↔
    Claims.startInTime s b ∧ Claims.rateHolds dt s b ∧ Claims.covers dt s b low.since := by
  unfold State.byteCut
  rw [Bool.and_eq_true, Bool.and_eq_true, State.edgeInTime_after, decide_eq_true_iff, State.rateHolds_after,
    State.stopCovered_after, and_assoc]

theorem execFrameAbort_eq (high : s.inReset = false) (receives : s.fc.state.receiving = true)
    (timed : s.up.rx = .lowSeen low) (long : 13 * low.tbit ≤ s.now + dt - low.since) : execFrameAbort dt s =
      if (s.after dt).startNow.any (fun b => !(s.after dt).byteCut b low) = true then .refused .overdue
      else .next (s.after dt).abort := by
  have lasts : low.isShort (s.after dt).now = false := decide_eq_false (Nat.not_lt.mpr long)
  unfold execFrameAbort
  rw [live_high high, State.upLow_of_lowSeen (s := s.after dt) timed]
  dsimp only
  rw [show (s.after dt).fc.state.receiving = true from receives, lasts]
  rfl

/-! ### The windows and the low on the wire (R3, R13, R14) -/

theorem State.edgeInTime_at {edge : Time} :
    (s.after dt).edgeInTime edge = decide (2 * (edge - s.fc.ref) ≤ Claims.window s) := by
  unfold State.edgeInTime
  rw [State.window2_after]
  rfl

/-- A start edge that came in time stands `dt` later. -/
theorem State.inTime_after : ((s.after dt).startNow.any fun b => (s.after dt).edgeInTime b.edge) = true ↔
    ∃ b, Claims.standing dt s b ∧ Claims.startInTime s b := by
  rw [State.startNow_any]
  refine exists_congr fun b => and_congr_right fun _ => ?_
  rw [show (readBy dt s b).edge = b.edge from rfl, State.edgeInTime_after, decide_eq_true_iff]

theorem State.windowFailed_after {l : Option Time} : (s.after dt).windowFailed l = true ↔
    Claims.window s ≤ 2 * (s.now + dt - s.fc.ref) ∧ (∀ b, ¬(Claims.standing dt s b ∧ Claims.startInTime s b)) ∧
      ∀ length, l = some length → Claims.window s < 2 * (s.now + dt - length - s.fc.ref) := by
  unfold State.windowFailed
  rw [Bool.and_eq_true, Bool.and_eq_true, State.window2_after, decide_eq_true_iff, Bool.not_eq_true',
    Bool.not_eq_true', Bool.eq_false_iff, Bool.eq_false_iff, Ne, Ne, State.inTime_after, not_exists, and_assoc]
  refine and_congr_right fun _ => and_congr_right fun _ => ?_
  rw [Option.any_eq_true, not_exists]
  refine forall_congr' fun length => ?_
  rw [not_and, State.edgeInTime_at, decide_eq_true_iff, Nat.not_le]
  rfl

theorem State.upLowFits_after {length : Time} : (s.after dt).upLowFits length = true ↔
    ((s.after dt).upLowFor length).since + length = s.now + dt ∧ length ≤ s.now + dt - s.fc.ref := by
  unfold State.upLowFits
  rw [Bool.and_eq_true, decide_eq_true_iff, decide_eq_true_iff]
  rfl

theorem State.awaitsByte_after (receives : s.fc.state.receiving = true) (wire : s.up.rx ≠ .stuck) :
    (s.after dt).awaitsByte = true := by
  unfold State.awaitsByte
  rw [Bool.and_eq_true, decide_eq_true_iff]
  exact ⟨receives, wire⟩

theorem State.windowRuns_after {l : Option Time} (receives : s.fc.state.receiving = true) (wire : s.up.rx ≠ .stuck)
    (named : ∀ length, l = some length → (s.after dt).upLowFits length = true) : (s.after dt).windowRuns l = true := by
  unfold State.windowRuns
  rw [State.awaitsByte_after receives wire, Bool.true_and, Option.all_eq_true]
  exact named

theorem State.startFits_after {elapsed : Time} (fits : ∀ b, Claims.standing dt s b → b.edge + elapsed = s.now + dt) :
    (s.after dt).startFits elapsed = true :=
  State.startNow_all.mpr fun b standing => decide_eq_true (fits b standing)

/-! ### A low stop cell (R5, R7) -/

/-- Seven Tbit of the byte under way lie within the limits that a row of its end keeps to. -/
theorem State.sevenRange_after {seven : Time} (known : ∀ b, Claims.standing dt s b → Claims.seven s b = some seven)
    (passes : if s.fc.state = .rate then 616 * s.mgmt.rate.tbit ≤ 100 * seven ∧ 100 * seven ≤ 784 * s.mgmt.rate.tbit
      else seven = s.fc.span.getD 0) :
    (s.after dt).sevenRange.1 ≤ 100 * seven ∧ 100 * seven ≤ (s.after dt).sevenRange.2 := by
  unfold State.sevenRange
  cases found : (s.after dt).startNow with
  | some b' =>
    obtain ⟨b, standing, rfl⟩ := State.startNow_iff.mp found
    have same : (s.after dt).sevenTbit (readBy dt s b) = some seven := State.sevenTbit_after.trans (known b standing)
    rw [Option.bind_some, same]
    exact ⟨Nat.le_refl _, Nat.le_refl _⟩
  | none =>
    rw [show (s.after dt).fc = s.fc from rfl]
    cases state : s.fc.state with
    | rate => exact (if_pos state).mp passes
    | _ =>
      have measured : seven = s.fc.pace := (if_neg (by rw [state]; nofun)).mp passes
      rw [measured]
      exact ⟨Nat.le_refl _, Nat.le_refl _⟩

theorem hundredfold_stopCell {began seven : Nat} (covers : 14 * began ≤ 19 * seven) :
    1400 * began ≤ 19 * (100 * seven) := by omega

theorem hundredfold_reached {elapsed seven : Nat} (reached : 19 * seven ≤ 14 * elapsed) :
    19 * (100 * seven) ≤ 1400 * elapsed := by omega

/-- R3, R5: the low that a FRAMING row names can cover the stop cell of its byte. -/
theorem State.stopLowBegins_after {seven : Time} {l : StopLow}
    (range : (s.after dt).sevenRange.1 ≤ 100 * seven ∧ 100 * seven ≤ (s.after dt).sevenRange.2)
    (covers : 14 * (l.elapsed - l.length) ≤ 19 * seven) (begins : s.fc.state = .rate → seven ≤ l.elapsed - l.length) :
    (s.after dt).stopLowBegins l = true := by
  unfold State.stopLowBegins
  rw [Bool.and_eq_true, Bool.or_eq_true, decide_eq_true_iff, decide_eq_true_iff, decide_eq_true_iff]
  refine ⟨(hundredfold_stopCell covers).trans (Nat.mul_le_mul_left 19 range.2), ?_⟩
  by_cases rate : s.fc.state = .rate
  · exact .inr (range.1.trans (Nat.mul_le_mul_left 100 (begins rate)))
  · exact .inl rate

theorem execFramingError_run {seven elapsed length : Time} (high : s.inReset = false)
    (receives : s.fc.state.receiving = true) (wire : s.up.rx ≠ .stuck) (fits : (s.after dt).upLowFits length = true)
    (shorter : length < 13 * ((s.after dt).upLowFor length).tbit) (began : length ≤ elapsed)
    (framed : elapsed ≤ s.now + dt - s.fc.ref) (edge : 2 * (s.now + dt - elapsed - s.fc.ref) ≤ Claims.window s)
    (reached : 19 * seven ≤ 14 * elapsed) (covers : 14 * (elapsed - length) ≤ 19 * seven)
    (passes : if s.fc.state = .rate then 616 * s.mgmt.rate.tbit ≤ 100 * seven ∧ 100 * seven ≤ 784 * s.mgmt.rate.tbit
      else seven = s.fc.span.getD 0) (begins : s.fc.state = .rate → seven ≤ elapsed - length)
    (shown : ∀ b, Claims.standing dt s b → b.edge + elapsed = s.now + dt ∧ Claims.seven s b = some seven) :
    execFramingError ⟨dt, elapsed, length⟩ s = .next (((s.after dt).setRx .idle).lineError .framing) := by
  have range := State.sevenRange_after (fun b standing => (shown b standing).2) passes
  have holds : ((s.after dt).startNow.any fun b => !(s.after dt).rateHolds b) = false := by
    refine Bool.eq_false_iff.mpr fun fails => ?_
    obtain ⟨b, standing, broken⟩ := State.startNow_any.mp fails
    rw [Bool.not_eq_true'] at broken
    refine Bool.eq_false_iff.mp broken (State.rateHolds_after.mpr fun rate => ?_)
    rw [show Claims.seven s (readBy dt s b) = some seven from (shown b standing).2]
    exact (if_pos rate).mp passes
  have lasted : (s.after dt).now - ((s.after dt).upLowFor length).since = length :=
    Nat.sub_eq_of_eq_add' (State.upLowFits_after.mp fits).1.symm
  have short : ((s.after dt).upLowFor length).isShort (s.after dt).now = true := by
    unfold LowTimer.isShort
    rw [lasted]
    exact decide_eq_true shorter
  have stops : (s.after dt).stopLowFits ⟨dt, elapsed, length⟩ = true := by
    unfold State.stopLowFits
    rw [fits, short, State.startFits_after fun b standing => (shown b standing).1,
      State.stopLowBegins_after range covers begins]
    dsimp only
    rw [decide_eq_true began,
      show decide (elapsed ≤ (s.after dt).now - (s.after dt).fc.ref) = true from decide_eq_true framed]
    rfl
  unfold execFramingError
  dsimp only
  rw [live_high high, State.awaitsByte_after receives wire, stops, holds, State.edgeInTime_at,
    decide_eq_true (show 2 * ((s.after dt).now - elapsed - s.fc.ref) ≤ Claims.window s from edge)]
  exact if_neg (Nat.not_lt.mpr ((Nat.mul_le_mul_left 19 range.1).trans (hundredfold_reached reached)))

/-! ### The limit of the rate byte (R7, R13) -/

theorem execRateLimit_run {elapsed : Time} {l : Option Time} (high : s.inReset = false) (rate : s.fc.state = .rate)
    (wire : s.up.rx ≠ .stuck) (began : elapsed ≤ s.now + dt - s.fc.ref)
    (lowFits : ∀ length, l = some length → (s.after dt).upLowFits length = true ∧ length ≤ elapsed)
    (shown : ∀ b, Claims.standing dt s b → b.edge + elapsed = s.now + dt ∧ Claims.seven s b = none)
    (limit : 784 * s.mgmt.rate.tbit ≤ 100 * elapsed)
    (inWindow : s.now + dt - s.fc.ref ≤ 3 * s.mgmt.rate.tbit + elapsed) :
    execRateLimit dt ⟨elapsed, l⟩ s = .next ((s.after dt).rateLimit l) := by
  have place : ¬((s.after dt).fc.state ≠ .rate ∨ (s.after dt).up.rx = .stuck ∨
      (s.after dt).now - (s.after dt).fc.ref < elapsed ∨ (s.after dt).startFits elapsed = false ∨
      ((s.after dt).startNow.bind StartEdge.span).isSome = true ∨
      l.any (fun length => !(s.after dt).upLowFits length || decide (elapsed < length)) = true) := by
    rintro (other | stuck | early | misfit | fourth | bad)
    · exact other rate
    · exact wire stuck
    · exact Nat.not_lt.mpr began early
    · rw [State.startFits_after fun b standing => (shown b standing).1] at misfit
      cases misfit
    · obtain ⟨b, standing, seven⟩ := (State.fourthShown_after rate).mp fourth
      exact seven (shown b standing).2
    · rw [Option.any_eq_true] at bad
      obtain ⟨length, here, bad⟩ := bad
      obtain ⟨fits, lasts⟩ := lowFits length here
      rw [fits, decide_eq_false (Nat.not_lt.mpr lasts)] at bad
      cases bad
  unfold execRateLimit
  rw [live_high high]
  exact (if_neg place).trans ((if_neg (Nat.not_lt.mpr limit)).trans (if_neg (Nat.not_lt.mpr inWindow)))

end

theorem breakLengthLowAbortsTheFrame : Claims.BreakLengthLowAbortsTheFrame := by
  intro dt low s high receiving timed long ended cut
  have ran : exec (.frameAbort dt) s = _ := execFrameAbort_eq high (FcState.receiving_iff.mpr receiving) timed long
  have uncut : ((s.after dt).startNow.any fun b => !(s.after dt).byteCut b low) = true ↔
      ∃ b, Claims.standing dt s b ∧ ¬cut b := by
    rw [State.startNow_any]
    refine exists_congr fun b => and_congr_right fun _ => ?_
    rw [Bool.not_eq_true', Bool.eq_false_iff]
    exact not_congr State.byteCut_after
  rw [ran]
  refine ⟨fun cuts => if_neg fun bad => ?_, fun bad => if_pos (uncut.mpr bad)⟩
  obtain ⟨b, standing, whole⟩ := uncut.mp bad
  exact whole (cuts b standing)

theorem lineFaultsEndTheFrame : Claims.LineFaultsEndTheFrame := by
  intro dt s high receiving wire waits since span twice window live timer onWire wired inTime fails named
  have receives : s.fc.state.receiving = true := FcState.receiving_iff.mpr receiving
  have timers (length : Time) : (s.after dt).upLowFor length = timer length := by
    unfold State.upLowFor State.upLow
    show Option.getD (match s.up.rx with | .lowSeen low => some low | .idle => none | .stuck => none) _ = _
    cases rx : s.up.rx <;> simp only [timer, rx] <;> rfl
  have fits (length : Time) (here : onWire length) : (s.after dt).upLowFits length = true := by
    rw [State.upLowFits_after, timers]
    exact here
  have ends (low : Option Time) : (s.after dt).wireAtEnd low = (s.after dt).setRx (wired low) := by
    cases low with
    | none => rfl
    | some length => exact congrArg (fun l => (s.after dt).setRx (.lowSeen l)) (timers length)
  have runs (low : Option Time) (names : named low) : (s.after dt).windowRuns low = true :=
    State.windowRuns_after receives wire fun length here => fits length (names length here)
  have waiting : (s.after dt).fc.awaitsResponse = true ↔ waits := FrameContext.awaitsResponse_iff
  have gapPlace (low : Option Time) (names : named low) (answered : ¬waits) :
      ((s.after dt).windowRuns low && !(s.after dt).fc.awaitsResponse) = true := by
    rw [runs low names, Bool.eq_false_iff.mpr (mt waiting.mp answered)]
    rfl
  have silentPlace (low : Option Time) (names : named low) (unanswered : waits) :
      ((s.after dt).windowRuns low && (s.after dt).fc.awaitsResponse) = true := by
    rw [runs low names, waiting.mpr unanswered]
    rfl
  have notFailed (low : Option Time) (keeps : ∃ b, inTime b) : ¬(s.after dt).windowFailed low = true := fun failed => by
    obtain ⟨b, stands⟩ := keeps
    exact (State.windowFailed_after.mp failed).2.1 b stands
  refine ⟨fun elapsed length seven here shorter began framed edge reached covers passes shown => ?_,
    fun low answered names failed => ?_, fun low unanswered names failed => ?_,
    fun low names keeps => ⟨fun answered => ?_, fun unanswered => ?_⟩,
    fun elapsed low rate began names lasts shown limit inWindow => ?_⟩
  · have rated (rate : s.fc.state = .rate) := (if_pos rate).mp passes
    have within : if s.fc.state = .rate then
        616 * s.mgmt.rate.tbit ≤ 100 * seven ∧ 100 * seven ≤ 784 * s.mgmt.rate.tbit else seven = s.fc.span.getD 0 := by
      by_cases rate : s.fc.state = .rate
      · rw [if_pos rate]
        exact ⟨(rated rate).1, (rated rate).2.1⟩
      · rw [if_neg rate] at passes ⊢
        exact passes
    have ran : exec (.framingError ⟨dt, elapsed, length⟩) s = _ :=
      execFramingError_run high receives wire (fits length here) (by rw [timers]; exact shorter) began framed edge
        reached covers within (fun rate => (rated rate).2.2) shown
    rw [ran]
    rfl
  · show execGapError ⟨dt, low⟩ s = _
    unfold execGapError
    rw [event_inPlace high (gapPlace low names answered), if_pos (State.windowFailed_after.mpr failed)]
    unfold State.gapError
    rw [ends]
    rfl
  · show execUnanswered ⟨dt, low⟩ s = _
    unfold execUnanswered
    rw [event_inPlace high (silentPlace low names unanswered), if_pos (State.windowFailed_after.mpr failed)]
    unfold State.goesUnanswered
    rw [ends]
    rfl
  · show execGapError ⟨dt, low⟩ s = _
    unfold execGapError
    rw [event_inPlace high (gapPlace low names answered), if_neg (notFailed low keeps)]
  · show execUnanswered ⟨dt, low⟩ s = _
    unfold execUnanswered
    rw [event_inPlace high (silentPlace low names unanswered), if_neg (notFailed low keeps)]
  · show execRateLimit dt ⟨elapsed, low⟩ s = _
    have lowFits (length : Time) (standsNow : low = some length) :
        (s.after dt).upLowFits length = true ∧ length ≤ elapsed :=
      ⟨fits length (names length standsNow), lasts length standsNow⟩
    rw [execRateLimit_run high rate wire began lowFits shown limit inWindow]
    unfold State.rateLimit
    rw [ends]
    rfl

/-- Settles O7. -/
theorem lineErrorsEndTheFrame : Obligations.LineErrorsEndTheFrame :=
  ⟨breakLengthLowAbortsTheFrame, lineFaultsEndTheFrame⟩

end Sys2Proof.Machine
end
